-- ==== Sys2Proof/Word.lean ====
section
/-! DEFINITION. The word types of the core (00_scope.md R7, R14, R15). -/

namespace Sys2Proof

/-- Four bits of an opcode: the source's "half-byte" (R19). -/
abbrev Nibble := BitVec 4

/-- A byte: a V register, a timer, a memory cell (R7). -/
abbrev Byte := BitVec 8

/-- The 12-bit field NNN (30_encoding.md R91). -/
abbrev Addr := BitVec 12

/-- Sixteen bits: `I`, `PC`, a stack entry, an opcode (R7). -/
abbrev Word := BitVec 16

/-- The number of a general register, V0 to VF (10_state.md R21, R22). -/
abbrev RegIdx := Fin 16

/-- The number of a key, 0 to 15 (44_keypad_timers.md R200). -/
abbrev Key := Fin 16

/-- `MEM_SIZE` of R7. -/
def memSize : Nat := 4096

/-- The pixels of one row, by column 0 to 63 (10_state.md R41). -/
abbrev PixelRow := Vector Bool 64

/-- `FB[y][x]`: 32 rows of 64 pixels, `true` is on (10_state.md R41). -/
abbrev Framebuffer := Vector PixelRow 32

end Sys2Proof
end

