-- ==== Sys2Proof/Config.lean ====
section
/-! DEFINITION. What is fixed before a run (the parameters of 00_scope.md R8 to R12 and R16) and the free values. -/

namespace Sys2Proof

/-- The input record of one iteration (00_scope.md R16). -/
structure Env where
  /-- a quit request was seen at this iteration's poll -/
  quit       : Bool
  /-- bit `k` is 1 when key `k` is held -/
  keysDown   : BitVec 16
  /-- the newly pressed key, if one is reported (44_keypad_timers.md R207) -/
  keyPressed : Option Key
  /-- the byte CXNN draws (41_alu.md R154) -/
  rand       : Byte
  /-- the 60 Hz deadline has elapsed (60_exceptions.md R242) -/
  tickDue    : Bool
  deriving DecidableEq, Repr, Inhabited

/-- The record of an iteration at which nothing arrives from outside. -/
def Env.quiet : Env :=
  { quit := false, keysDown := 0, keyPressed := none, rand := 0, tickDue := false }

/-- FREE VALUE (log entry 1): the record the environment supplies at the poll numbered `n`, where the host has placed
none. "the model treats every field as a free input under no law" (00_scope.md R16). -/
opaque Config.freeEnv : Nat → Env

/-- `FONT_BASE` (00_scope.md R8). -/
def fontBase : Word := 0x0050

/-- `ROM_BASE` (00_scope.md R7). -/
def romBase : Word := 0x0200

/-- The number of bytes of `FONT_DATA` (00_scope.md R9). -/
def fontSize : Nat := 80

/-- The most bytes a ROM image may have (00_scope.md R10). -/
def romMax : Nat := 3584

/-- The framebuffer with every pixel off. -/
def blankScreen : Framebuffer := Vector.replicate 32 (Vector.replicate 64 false)

/-- The default `FONT_DATA`: PRESUMED, item G1 of 93_implementation_defined.md (log entry 4). Glyphs 0 to 7. -/
def fontLow : List Byte :=
  [0xF0, 0x90, 0x90, 0x90, 0xF0,  0x20, 0x60, 0x20, 0x20, 0x70,
   0xF0, 0x10, 0xF0, 0x80, 0xF0,  0xF0, 0x10, 0xF0, 0x10, 0xF0,
   0x90, 0x90, 0xF0, 0x10, 0x10,  0xF0, 0x80, 0xF0, 0x10, 0xF0,
   0xF0, 0x80, 0xF0, 0x90, 0xF0,  0xF0, 0x10, 0x20, 0x40, 0x40]

/-- The default `FONT_DATA`, glyphs 8 to F. -/
def fontHigh : List Byte :=
  [0xF0, 0x90, 0xF0, 0x90, 0xF0,  0xF0, 0x90, 0xF0, 0x10, 0xF0,
   0xF0, 0x90, 0xF0, 0x90, 0x90,  0xE0, 0x90, 0xE0, 0x90, 0xE0,
   0xF0, 0x80, 0x80, 0x80, 0xF0,  0xE0, 0x90, 0x90, 0x90, 0xE0,
   0xF0, 0x80, 0xF0, 0x80, 0xF0,  0xF0, 0x80, 0xF0, 0x80, 0x80]

/-- The default `FONT_DATA`, glyph `g` at `5 * g`. -/
def defaultFont : List Byte := fontLow ++ fontHigh

/-- The configuration a reset builds the machine from: "`FONT_DATA`, `ROM`, `FB0`, the two strap inputs"
(70_reset_and_hazards.md R260). -/
structure Config where
  shiftSetVY : Bool
  fx55IncrI  : Bool
  fontData   : List Byte
  rom        : List Byte
  fb0        : Framebuffer
  deriving DecidableEq, Repr

/-- The configuration behind `State.reset`: the spec's defaults for `FONT_DATA` and `FB0`; an empty ROM (log entry 2)
and both straps 0 (DESIGN CHOICE, log entry 5), which the spec leaves open. -/
def Config.standard : Config :=
  { shiftSetVY := false, fx55IncrI := false, fontData := defaultFont, rom := [], fb0 := blankScreen }

end Sys2Proof
end

