-- ==== Sys2Proof/Syntax.lean ====
section
/-! DEFINITION. The instructions: one constructor for each row of spec/opcode_table.json, named by its pattern, "the only
name the source gives it" (30_encoding.md R96), with the operand fields of R91 and R93. -/

namespace Sys2Proof

/-- The 34 instructions, in the order of the opcode table. -/
inductive Instr where
  /-- clear display -/
  | op00E0
  /-- return -/
  | op00EE
  /-- jump -/
  | op1NNN (nnn : Addr)
  /-- call -/
  | op2NNN (nnn : Addr)
  /-- skip if V[X] = NN -/
  | op3XNN (x : RegIdx) (nn : Byte)
  /-- skip if V[X] is not NN -/
  | op4XNN (x : RegIdx) (nn : Byte)
  /-- skip if V[X] = V[Y] -/
  | op5XY0 (x y : RegIdx)
  /-- load immediate -/
  | op6XNN (x : RegIdx) (nn : Byte)
  /-- add immediate -/
  | op7XNN (x : RegIdx) (nn : Byte)
  /-- copy register -/
  | op8XY0 (x y : RegIdx)
  /-- bitwise OR -/
  | op8XY1 (x y : RegIdx)
  /-- bitwise AND -/
  | op8XY2 (x y : RegIdx)
  /-- bitwise XOR -/
  | op8XY3 (x y : RegIdx)
  /-- add registers -/
  | op8XY4 (x y : RegIdx)
  /-- subtract -/
  | op8XY5 (x y : RegIdx)
  /-- shift right by one -/
  | op8XY6 (x y : RegIdx)
  /-- reverse subtract -/
  | op8XY7 (x y : RegIdx)
  /-- shift left by one -/
  | op8XYE (x y : RegIdx)
  /-- skip if V[X] is not V[Y] -/
  | op9XY0 (x y : RegIdx)
  /-- load index -/
  | opANNN (nnn : Addr)
  /-- jump with offset V[0] -/
  | opBNNN (nnn : Addr)
  /-- random byte AND NN -/
  | opCXNN (x : RegIdx) (nn : Byte)
  /-- draw an N-row sprite -/
  | opDXYN (x y : RegIdx) (n : Fin 16)
  /-- skip if key down -/
  | opEX9E (x : RegIdx)
  /-- skip if key not down -/
  | opEXA1 (x : RegIdx)
  /-- read delay timer -/
  | opFX07 (x : RegIdx)
  /-- wait for a key press -/
  | opFX0A (x : RegIdx)
  /-- set delay timer -/
  | opFX15 (x : RegIdx)
  /-- set sound timer -/
  | opFX18 (x : RegIdx)
  /-- add to index -/
  | opFX1E (x : RegIdx)
  /-- point at a font glyph -/
  | opFX29 (x : RegIdx)
  /-- store binary-coded decimal -/
  | opFX33 (x : RegIdx)
  /-- store registers -/
  | opFX55 (x : RegIdx)
  /-- load registers -/
  | opFX65 (x : RegIdx)
  deriving DecidableEq, Repr

end Sys2Proof
end

