-- ==== Sys2Proof/WellFormed.lean ====
section
/-! DEFINITION. What is well formed: an instruction's operand values against the widths of their fields (30_encoding.md
R91, R93), and a configuration a run can start from (00_scope.md R9, R10). The operand types of `Instr` already carry the
first ("satisfied by construction of the fields", 10_state.md R22): Sys2Proof/Laws/PerInstr.lean proves it per constructor. -/

namespace Sys2Proof

/-- An operand as a number, with the width in bits of the field that holds it. -/
structure Operand where
  width : Nat
  value : Nat
  deriving DecidableEq, Repr

/-- A register field (X or Y), 4 bits. -/
def Operand.reg (r : RegIdx) : Operand := ⟨4, r.val⟩

/-- The immediate NN, 8 bits. -/
def Operand.imm (nn : Byte) : Operand := ⟨8, nn.toNat⟩

/-- The immediate NNN, 12 bits. -/
def Operand.addr (nnn : Addr) : Operand := ⟨12, nnn.toNat⟩

/-- The row count N, 4 bits. -/
def Operand.rows (n : Fin 16) : Operand := ⟨4, n.val⟩

/-- The value fits its field. -/
def Operand.fits (o : Operand) : Bool := decide (o.value < 2 ^ o.width)

/-- The operands of an instruction, from bit 11 down (30_encoding.md R92). -/
def Instr.operands : Instr → List Operand
  | .op00E0 => []
  | .op00EE => []
  | .op1NNN nnn => [.addr nnn]
  | .op2NNN nnn => [.addr nnn]
  | .op3XNN x nn => [.reg x, .imm nn]
  | .op4XNN x nn => [.reg x, .imm nn]
  | .op5XY0 x y => [.reg x, .reg y]
  | .op6XNN x nn => [.reg x, .imm nn]
  | .op7XNN x nn => [.reg x, .imm nn]
  | .op8XY0 x y => [.reg x, .reg y]
  | .op8XY1 x y => [.reg x, .reg y]
  | .op8XY2 x y => [.reg x, .reg y]
  | .op8XY3 x y => [.reg x, .reg y]
  | .op8XY4 x y => [.reg x, .reg y]
  | .op8XY5 x y => [.reg x, .reg y]
  | .op8XY6 x y => [.reg x, .reg y]
  | .op8XY7 x y => [.reg x, .reg y]
  | .op8XYE x y => [.reg x, .reg y]
  | .op9XY0 x y => [.reg x, .reg y]
  | .opANNN nnn => [.addr nnn]
  | .opBNNN nnn => [.addr nnn]
  | .opCXNN x nn => [.reg x, .imm nn]
  | .opDXYN x y n => [.reg x, .reg y, .rows n]
  | .opEX9E x => [.reg x]
  | .opEXA1 x => [.reg x]
  | .opFX07 x => [.reg x]
  | .opFX0A x => [.reg x]
  | .opFX15 x => [.reg x]
  | .opFX18 x => [.reg x]
  | .opFX1E x => [.reg x]
  | .opFX29 x => [.reg x]
  | .opFX33 x => [.reg x]
  | .opFX55 x => [.reg x]
  | .opFX65 x => [.reg x]

/-- Every operand fits its field. -/
def Instr.wf (i : Instr) : Bool := i.operands.all Operand.fits

/-- A configuration a run can start from: 80 font bytes (R9) and `0 <= ROM_LEN <= 3584` (R10). -/
def Config.wf (c : Config) : Bool :=
  decide (c.fontData.length = fontSize) && decide (c.rom.length ≤ romMax)

end Sys2Proof
end

