-- ==== Sys2Proof/Decode.lean ====
section
/-! DEFINITION. The instruction word, its fields, the decoder (30_encoding.md R91, R94, R95), the opcode map (R96), the
encoder, and the host's reading of a table word. -/

namespace Sys2Proof

/-- What the decoder answers: one of the 34 instructions, or the word, rejected by name (R95). -/
inductive Decoded where
  | instruction (i : Instr)
  | unrecognized (op : Word)
  deriving DecidableEq, Repr

/-- The register a 4-bit field names (10_state.md R22). -/
def regOfNibble (n : Nibble) : RegIdx := ⟨n.toNat, n.isLt⟩

/-- The 4-bit field that names a register or counts rows. -/
def nibbleOfFin (r : Fin 16) : Nibble := BitVec.ofNat 4 r.val

/-- `op = b1 ++ b2`, the byte at the lower address in bits 15:8 (20_memory.md R65, R66). -/
def opcodeOf (b1 b2 : Byte) : Word := b1 ++ b2

/-- Field `C`, bits 15:12 (R91). -/
def fieldC (op : Word) : Nibble := op.extractLsb' 12 4

/-- Field `X`, bits 11:8 (R91). -/
def fieldX (op : Word) : RegIdx := regOfNibble (op.extractLsb' 8 4)

/-- Field `Y`, bits 7:4 (R91). -/
def fieldY (op : Word) : RegIdx := regOfNibble (op.extractLsb' 4 4)

/-- Field `N`, bits 3:0 (R91). -/
def fieldN (op : Word) : Fin 16 := regOfNibble (op.extractLsb' 0 4)

/-- Field `NN`, bits 7:0 (R91). -/
def fieldNN (op : Word) : Byte := op.extractLsb' 0 8

/-- Field `NNN`, bits 11:0 (R91). -/
def fieldNNN (op : Word) : Addr := op.extractLsb' 0 12

/-- Class 8: the sub-table key is nibble 4 (R94, R95). -/
def decodeClass8 (op : Word) : Decoded :=
  match (fieldN op).val with
  | 0x0 => .instruction (.op8XY0 (fieldX op) (fieldY op))
  | 0x1 => .instruction (.op8XY1 (fieldX op) (fieldY op))
  | 0x2 => .instruction (.op8XY2 (fieldX op) (fieldY op))
  | 0x3 => .instruction (.op8XY3 (fieldX op) (fieldY op))
  | 0x4 => .instruction (.op8XY4 (fieldX op) (fieldY op))
  | 0x5 => .instruction (.op8XY5 (fieldX op) (fieldY op))
  | 0x6 => .instruction (.op8XY6 (fieldX op) (fieldY op))
  | 0x7 => .instruction (.op8XY7 (fieldX op) (fieldY op))
  | 0xE => .instruction (.op8XYE (fieldX op) (fieldY op))
  | _ => .unrecognized op

/-- Class E: the sub-table key is byte 2 (R94, R95). -/
def decodeClassE (op : Word) : Decoded :=
  match (fieldNN op).toNat with
  | 0x9E => .instruction (.opEX9E (fieldX op))
  | 0xA1 => .instruction (.opEXA1 (fieldX op))
  | _ => .unrecognized op

/-- Class F: the sub-table key is byte 2 (R94, R95). -/
def decodeClassF (op : Word) : Decoded :=
  match (fieldNN op).toNat with
  | 0x07 => .instruction (.opFX07 (fieldX op))
  | 0x0A => .instruction (.opFX0A (fieldX op))
  | 0x15 => .instruction (.opFX15 (fieldX op))
  | 0x18 => .instruction (.opFX18 (fieldX op))
  | 0x1E => .instruction (.opFX1E (fieldX op))
  | 0x29 => .instruction (.opFX29 (fieldX op))
  | 0x33 => .instruction (.opFX33 (fieldX op))
  | 0x55 => .instruction (.opFX55 (fieldX op))
  | 0x65 => .instruction (.opFX65 (fieldX op))
  | _ => .unrecognized op

/-- The general table, on nibble 1 (R95). Class 0 has no member beyond the two whole words. -/
def decodeClass (op : Word) : Decoded :=
  match (fieldC op).toNat with
  | 0x1 => .instruction (.op1NNN (fieldNNN op))
  | 0x2 => .instruction (.op2NNN (fieldNNN op))
  | 0x3 => .instruction (.op3XNN (fieldX op) (fieldNN op))
  | 0x4 => .instruction (.op4XNN (fieldX op) (fieldNN op))
  | 0x5 => if fieldN op = 0 then .instruction (.op5XY0 (fieldX op) (fieldY op)) else .unrecognized op
  | 0x6 => .instruction (.op6XNN (fieldX op) (fieldNN op))
  | 0x7 => .instruction (.op7XNN (fieldX op) (fieldNN op))
  | 0x8 => decodeClass8 op
  | 0x9 => if fieldN op = 0 then .instruction (.op9XY0 (fieldX op) (fieldY op)) else .unrecognized op
  | 0xA => .instruction (.opANNN (fieldNNN op))
  | 0xB => .instruction (.opBNNN (fieldNNN op))
  | 0xC => .instruction (.opCXNN (fieldX op) (fieldNN op))
  | 0xD => .instruction (.opDXYN (fieldX op) (fieldY op) (fieldN op))
  | 0xE => decodeClassE op
  | 0xF => decodeClassF op
  | _ => .unrecognized op

/-- `Decode(op)` of R95, total on all 65536 words. -/
def decode (op : Word) : Decoded :=
  if op = 0x00E0 then .instruction .op00E0
  else if op = 0x00EE then .instruction .op00EE
  else decodeClass op

/-- The decoder on the two bytes of an instruction, in ascending address order (R91). -/
def decodeBytes (b1 b2 : Byte) : Decoded := decode (opcodeOf b1 b2)

/-- A row of the opcode map: "a word `w` selects the row exactly when `w AND mask = match`" (R96). -/
structure OpcodeRow where
  mask      : Word
  matchBits : Word
  deriving DecidableEq, Repr

/-- The word selects the row. -/
def OpcodeRow.selects (row : OpcodeRow) (w : Word) : Bool := decide (w &&& row.mask = row.matchBits)

/-- Classes 0 to 7 of the opcode map (R96). -/
def opcodeMapLow : List OpcodeRow :=
  [⟨0xFFFF, 0x00E0⟩, ⟨0xFFFF, 0x00EE⟩, ⟨0xF000, 0x1000⟩, ⟨0xF000, 0x2000⟩, ⟨0xF000, 0x3000⟩, ⟨0xF000, 0x4000⟩,
   ⟨0xF00F, 0x5000⟩, ⟨0xF000, 0x6000⟩, ⟨0xF000, 0x7000⟩]

/-- Classes 8 to D of the opcode map (R96). -/
def opcodeMapMid : List OpcodeRow :=
  [⟨0xF00F, 0x8000⟩, ⟨0xF00F, 0x8001⟩, ⟨0xF00F, 0x8002⟩, ⟨0xF00F, 0x8003⟩, ⟨0xF00F, 0x8004⟩, ⟨0xF00F, 0x8005⟩,
   ⟨0xF00F, 0x8006⟩, ⟨0xF00F, 0x8007⟩, ⟨0xF00F, 0x800E⟩, ⟨0xF00F, 0x9000⟩, ⟨0xF000, 0xA000⟩, ⟨0xF000, 0xB000⟩,
   ⟨0xF000, 0xC000⟩, ⟨0xF000, 0xD000⟩]

/-- Classes E and F of the opcode map (R96). -/
def opcodeMapHigh : List OpcodeRow :=
  [⟨0xF0FF, 0xE09E⟩, ⟨0xF0FF, 0xE0A1⟩, ⟨0xF0FF, 0xF007⟩, ⟨0xF0FF, 0xF00A⟩, ⟨0xF0FF, 0xF015⟩, ⟨0xF0FF, 0xF018⟩,
   ⟨0xF0FF, 0xF01E⟩, ⟨0xF0FF, 0xF029⟩, ⟨0xF0FF, 0xF033⟩, ⟨0xF0FF, 0xF055⟩, ⟨0xF0FF, 0xF065⟩]

/-- The opcode map, in R96's order. -/
def opcodeMap : List OpcodeRow := opcodeMapLow ++ opcodeMapMid ++ opcodeMapHigh

/-- The row of each instruction, by its pattern (R96). -/
def Instr.row : Instr → OpcodeRow
  | .op00E0 => ⟨0xFFFF, 0x00E0⟩
  | .op00EE => ⟨0xFFFF, 0x00EE⟩
  | .op1NNN _ => ⟨0xF000, 0x1000⟩
  | .op2NNN _ => ⟨0xF000, 0x2000⟩
  | .op3XNN _ _ => ⟨0xF000, 0x3000⟩
  | .op4XNN _ _ => ⟨0xF000, 0x4000⟩
  | .op5XY0 _ _ => ⟨0xF00F, 0x5000⟩
  | .op6XNN _ _ => ⟨0xF000, 0x6000⟩
  | .op7XNN _ _ => ⟨0xF000, 0x7000⟩
  | .op8XY0 _ _ => ⟨0xF00F, 0x8000⟩
  | .op8XY1 _ _ => ⟨0xF00F, 0x8001⟩
  | .op8XY2 _ _ => ⟨0xF00F, 0x8002⟩
  | .op8XY3 _ _ => ⟨0xF00F, 0x8003⟩
  | .op8XY4 _ _ => ⟨0xF00F, 0x8004⟩
  | .op8XY5 _ _ => ⟨0xF00F, 0x8005⟩
  | .op8XY6 _ _ => ⟨0xF00F, 0x8006⟩
  | .op8XY7 _ _ => ⟨0xF00F, 0x8007⟩
  | .op8XYE _ _ => ⟨0xF00F, 0x800E⟩
  | .op9XY0 _ _ => ⟨0xF00F, 0x9000⟩
  | .opANNN _ => ⟨0xF000, 0xA000⟩
  | .opBNNN _ => ⟨0xF000, 0xB000⟩
  | .opCXNN _ _ => ⟨0xF000, 0xC000⟩
  | .opDXYN _ _ _ => ⟨0xF000, 0xD000⟩
  | .opEX9E _ => ⟨0xF0FF, 0xE09E⟩
  | .opEXA1 _ => ⟨0xF0FF, 0xE0A1⟩
  | .opFX07 _ => ⟨0xF0FF, 0xF007⟩
  | .opFX0A _ => ⟨0xF0FF, 0xF00A⟩
  | .opFX15 _ => ⟨0xF0FF, 0xF015⟩
  | .opFX18 _ => ⟨0xF0FF, 0xF018⟩
  | .opFX1E _ => ⟨0xF0FF, 0xF01E⟩
  | .opFX29 _ => ⟨0xF0FF, 0xF029⟩
  | .opFX33 _ => ⟨0xF0FF, 0xF033⟩
  | .opFX55 _ => ⟨0xF0FF, 0xF055⟩
  | .opFX65 _ => ⟨0xF0FF, 0xF065⟩

/-- Format A: `cNNN` (R92). -/
def wordA (c : Nibble) (nnn : Addr) : Word := c ++ nnn

/-- Formats I and S: `cXNN` and `cXss` (R92). -/
def wordI (c : Nibble) (x : RegIdx) (nn : Byte) : Word := c ++ (nibbleOfFin x ++ nn)

/-- Formats R and D: `cXYn` and `DXYN` (R92). -/
def wordR (c : Nibble) (x y n : Fin 16) : Word := c ++ (nibbleOfFin x ++ (nibbleOfFin y ++ nibbleOfFin n))

/-- The word of an instruction: its pattern "with every letter replaced by a hex digit" (R101, R92). -/
def encode : Instr → Word
  | .op00E0 => 0x00E0
  | .op00EE => 0x00EE
  | .op1NNN nnn => wordA 0x1 nnn
  | .op2NNN nnn => wordA 0x2 nnn
  | .op3XNN x nn => wordI 0x3 x nn
  | .op4XNN x nn => wordI 0x4 x nn
  | .op5XY0 x y => wordR 0x5 x y 0x0
  | .op6XNN x nn => wordI 0x6 x nn
  | .op7XNN x nn => wordI 0x7 x nn
  | .op8XY0 x y => wordR 0x8 x y 0x0
  | .op8XY1 x y => wordR 0x8 x y 0x1
  | .op8XY2 x y => wordR 0x8 x y 0x2
  | .op8XY3 x y => wordR 0x8 x y 0x3
  | .op8XY4 x y => wordR 0x8 x y 0x4
  | .op8XY5 x y => wordR 0x8 x y 0x5
  | .op8XY6 x y => wordR 0x8 x y 0x6
  | .op8XY7 x y => wordR 0x8 x y 0x7
  | .op8XYE x y => wordR 0x8 x y 0xE
  | .op9XY0 x y => wordR 0x9 x y 0x0
  | .opANNN nnn => wordA 0xA nnn
  | .opBNNN nnn => wordA 0xB nnn
  | .opCXNN x nn => wordI 0xC x nn
  | .opDXYN x y n => wordR 0xD x y n
  | .opEX9E x => wordI 0xE x 0x9E
  | .opEXA1 x => wordI 0xE x 0xA1
  | .opFX07 x => wordI 0xF x 0x07
  | .opFX0A x => wordI 0xF x 0x0A
  | .opFX15 x => wordI 0xF x 0x15
  | .opFX18 x => wordI 0xF x 0x18
  | .opFX1E x => wordI 0xF x 0x1E
  | .opFX29 x => wordI 0xF x 0x29
  | .opFX33 x => wordI 0xF x 0x33
  | .opFX55 x => wordI 0xF x 0x55
  | .opFX65 x => wordI 0xF x 0x65

/-- The two bytes of a word as memory holds them, ascending addresses (20_memory.md R65). -/
def wordBytes (op : Word) : Byte × Byte := (op.extractLsb' 8 8, op.extractLsb' 0 8)

/-- A table word of `nbits` bits as the opcode it stands for; the bits above `nbits` are 0. Every row has 16 bits. -/
def tableWord (nbits w : Nat) : Word := BitVec.ofNat 16 (w % 2 ^ nbits)

/-- The instruction the decoder reads from a table word laid out as memory holds it. -/
def decodeTableWord (nbits w : Nat) : Option Instr :=
  match decodeBytes (wordBytes (tableWord nbits w)).1 (wordBytes (tableWord nbits w)).2 with
  | .instruction i => some i
  | .unrecognized _ => none

end Sys2Proof
end

