-- ==== Sys2Proof/Machine/Memory.lean ====
section
/-! DEFINITION. The memory array MEM and its one port (10_state.md R36, 20_memory.md R60 to R62). -/

namespace Sys2Proof.Machine

/-- `MEM`, as the cells that differ from the image of the standard reset, addresses strictly rising. -/
abbrev Memory := List Host.Cell

/-- What an unlisted address reads as: the reset contents (10_state.md R36), that is zero, with the default `FONT_DATA` at
0x050 and an empty ROM (log entries 2 and 4). -/
def Memory.unlisted (a : Nat) : Byte :=
  if fontBase.toNat ≤ a then defaultFont.getD (a - fontBase.toNat) 0 else 0

/-- The byte stored at a cell number. -/
def Memory.read : Memory → Nat → Byte
  | [], a => Memory.unlisted a
  | (b, v) :: rest, a => if b = a then v else Memory.read rest a

/-- The cells that say "`a` holds `v`": none if an unlisted `a` reads as `v`. -/
def Memory.entry (a : Nat) (v : Byte) : Memory :=
  if v = Memory.unlisted a then [] else [(a, v)]

/-- Memory with `v` stored at the cell number `a`, in the canonical form. -/
def Memory.write : Memory → Nat → Byte → Memory
  | [], a, v => Memory.entry a v
  | (b, w) :: rest, a, v =>
    if a < b then Memory.entry a v ++ (b, w) :: rest
    else if a = b then Memory.entry a v ++ rest
    else (b, w) :: Memory.write rest a v

/-- The addresses rise strictly from `lo` on, exist, and hold something else than the reset image. -/
def Memory.risingFrom : Nat → Memory → Bool
  | _, [] => true
  | lo, (b, w) :: rest =>
    decide (lo ≤ b) && decide (b < memSize) && decide (w ≠ Memory.unlisted b) && Memory.risingFrom (b + 1) rest

/-- The canonical form. -/
def Memory.wf (m : Memory) : Bool := Memory.risingFrom 0 m

/-- The cell a 16-bit address reaches: "`MEM[a mod 4096]`" (20_memory.md R60). -/
def cellOf (a : Word) : Nat := a.toNat % memSize

/-- Bytes stored in ascending order from a cell number on (70_reset_and_hazards.md R262). -/
def Memory.load : Memory → Nat → List Byte → Memory
  | m, _, [] => m
  | m, a, v :: vs => Memory.load (Memory.write m a v) (a + 1) vs

end Sys2Proof.Machine
end

