-- ==== Sys2Proof/Machine/State.lean ====
section
/-! DEFINITION. The state of the core (10_state.md R20, R41, R44), its reset, and the reasons a step can stop. -/

namespace Sys2Proof.Machine

/-- The three anomalies (60_exceptions.md R233); `DiagCode.number` gives each its number. -/
inductive DiagCode where
  | unrecognizedOpcode
  | stackOverflow
  | stackUnderflow
  deriving DecidableEq, Repr

/-- A diagnostic event: "a code and a 16-bit information word" (60_exceptions.md R232). -/
structure Diag where
  code : DiagCode
  info : Word
  deriving DecidableEq, Repr

/-- The state. The first group is the architectural state of R20 under the spec's names, then the framebuffer of R41,
then the input record of the running iteration (00_scope.md R16), then the model's own fields. -/
structure State where
  /-- `V[0]` to `V[15]`; `VF` is `V[15]` -/
  v          : Vector Byte 16
  /-- `I`, all 16 bits kept (R25) -/
  ireg       : Word
  /-- `PC`, stored unmasked (R30) -/
  pc         : Word
  /-- `SP`, the number of valid entries, 0 to 16 (R32) -/
  sp         : Fin 17
  /-- `STK[0]` to `STK[15]` (R32) -/
  stk        : Vector Word 16
  /-- `MEM` (R36) -/
  mem        : Memory
  /-- `DT` (R37) -/
  dt         : Byte
  /-- `ST` (R37) -/
  st         : Byte
  /-- `RUN` (R39) -/
  run        : Bool
  /-- the strap `shift_set_VY` (R40) -/
  shiftSetVY : Bool
  /-- the strap `fx55_incr_I` (R40) -/
  fx55IncrI  : Bool
  /-- `FB` (R41) -/
  fb         : Framebuffer
  /-- the input record of the running iteration, taken at its poll (60_exceptions.md R249) -/
  env        : Env
  /-- MODEL: records already supplied for the coming iterations, oldest first (log entry 1) -/
  inputs     : List Env
  /-- MODEL: the number of polls so far, the argument of the free record (log entry 1) -/
  iter       : Nat
  /-- MODEL: the diagnostics emitted so far, oldest first (R232; log entry 7) -/
  diags      : List Diag
  deriving DecidableEq, Repr

/-- Why the machine stops with a fault: never. "The hardware raises no exception, synchronous or asynchronous"
(60_exceptions.md R230), so there is no reason to list. -/
inductive Fault where
  deriving DecidableEq, Repr

/-- Why a step has no meaning. -/
inductive Refusal where
  /-- Raised by an arm of exec whose instruction has no meaning yet; no arm is left, so no step raises it. Safe. -/
  | notModelled (mnemonic : String)
  deriving DecidableEq, Repr

/-- The outcome of an instruction, a cycle or a step. -/
abbrev Result := Host.Outcome State Fault Refusal

/-- The state right after reset (70_reset_and_hazards.md R261) with the configuration `Config.standard`. -/
def State.reset : State :=
  { v := Vector.replicate 16 0
    ireg := 0
    pc := romBase
    sp := 0
    stk := Vector.replicate 16 0
    mem := []
    dt := 0
    st := 0
    run := true
    shiftSetVY := Config.standard.shiftSetVY
    fx55IncrI := Config.standard.fx55IncrI
    fb := Config.standard.fb0
    env := Env.quiet
    inputs := []
    iter := 0
    diags := [] }

end Sys2Proof.Machine
end

