-- ==== Sys2Proof/Machine/Ops.lean ====
section
/-! DEFINITION. The named operations over the state: the register, memory, stack, display, timer and input primitives
(00_scope.md R17). There is no exception to take (60_exceptions.md R230, R237); the three anomalies share `State.diag`. -/

namespace Sys2Proof.Machine

/-! ## One field at a time -/

/-- Reads `V[r]` (10_state.md R21). -/
def State.readV (s : State) (r : RegIdx) : Byte := s.v[r.val]

/-- `V[r] <- b` (10_state.md R21). -/
def State.writeV (s : State) (r : RegIdx) (b : Byte) : State := { s with v := s.v.set r.val b }

/-- `I <- w` (10_state.md R26). -/
def State.writeI (s : State) (w : Word) : State := { s with ireg := w }

/-- `PC <- w`, never masked (10_state.md R30). -/
def State.writePC (s : State) (w : Word) : State := { s with pc := w }

/-- `DT <- b` (10_state.md R37). -/
def State.writeDT (s : State) (b : Byte) : State := { s with dt := b }

/-- `ST <- b` (10_state.md R37). -/
def State.writeST (s : State) (b : Byte) : State := { s with st := b }

/-- The call stack with other contents. -/
def State.setStack (s : State) (sp : Fin 17) (stk : Vector Word 16) : State := { s with sp := sp, stk := stk }

/-- The framebuffer with other contents. -/
def State.setFB (s : State) (fb : Framebuffer) : State := { s with fb := fb }

/-- `RUN <- 0` (60_exceptions.md R250). -/
def State.stop (s : State) : State := { s with run := false }

/-- The numeric code of an anomaly, column 'code' of the table of 60_exceptions.md R233 (the spec's own, D19). -/
def DiagCode.number : DiagCode → Nat
  | .unrecognizedOpcode => 1
  | .stackOverflow => 2
  | .stackUnderflow => 3

/-- A diagnostic as it leaves the core: the numeric code and the information word (60_exceptions.md R232, R233). -/
def Diag.event (d : Diag) : Nat × Word := (d.code.number, d.info)

/-- `Diag(code, info)`: emits one diagnostic and "reads and writes no architectural state" (60_exceptions.md R232). -/
def State.diag (s : State) (code : DiagCode) (info : Word) : State := { s with diags := s.diags ++ [⟨code, info⟩] }

/-! ## Memory -/

/-- `MemRead(a, 1)` (20_memory.md R60). -/
def State.memRead (s : State) (a : Word) : Byte := s.mem.read (cellOf a)

/-- `MemWrite(a, 1, v)` (20_memory.md R61). -/
def State.memWrite (s : State) (a : Word) (b : Byte) : State := { s with mem := s.mem.write (cellOf a) b }

/-- `MemRead(PC, 2)`, big-endian (20_memory.md R66). -/
def State.fetchWord (s : State) : Word := opcodeOf (s.memRead s.pc) (s.memRead (s.pc + 1))

/-- `PC <- (PC + 2) mod 65536`: the advance of the fetch step (20_memory.md R66) and of a skip (40_flow.md R128). -/
def State.advance (s : State) : State := s.writePC (s.pc + 2)

/-- A skip, executed when its condition holds (40_flow.md R128). -/
def State.skipIf (s : State) (c : Bool) : State := if c then s.advance else s

/-! ## The call stack -/

/-- `Push(v)` (10_state.md R33). -/
def State.push (s : State) (w : Word) : State :=
  if h : s.sp.val < 16 then s.setStack ⟨s.sp.val + 1, by omega⟩ (s.stk.set s.sp.val w)
  else s.diag .stackOverflow w

/-- The value `Pop()` returns (10_state.md R34). -/
def State.popValue (s : State) : Word :=
  if h : 0 < s.sp.val then s.stk[s.sp.val - 1]'(by omega) else 0x0000

/-- What `Pop()` leaves; "the entry keeps its bits but is no longer valid" (10_state.md R34). -/
def State.popState (s : State) : State :=
  if 0 < s.sp.val then s.setStack ⟨s.sp.val - 1, by omega⟩ s.stk
  else s.diag .stackUnderflow 0x0000

/-! ## The display port -/

/-- The pixel at column `x`, row `y`. -/
def pixel (fb : Framebuffer) (x : Fin 64) (y : Fin 32) : Bool := fb[y.val][x.val]

/-- `DispClear()` (43_display.md R191). -/
def State.dispClear (s : State) : State := s.setFB blankScreen

/-- What `DispFlip(x, y)` leaves of the framebuffer (43_display.md R192). -/
def dispFlip (fb : Framebuffer) (x : Fin 64) (y : Fin 32) : Framebuffer :=
  fb.set y.val ((fb[y.val]).set x.val (!pixel fb x y))

/-- What `DispFlip(x, y)` returns: "1 when the pixel ended off", tested after the toggle (43_display.md R192). -/
def dispFlipOff (fb : Framebuffer) (x : Fin 64) (y : Fin 32) : Bool := !pixel (dispFlip fb x y) x y

/-- `DispRender()` "changes neither `FB` nor any state of the core and returns nothing" (43_display.md R193). -/
def State.dispRender (s : State) : State := s

/-! ## The timers -/

/-- A timer one tick later, clamped at 0 (60_exceptions.md R241). -/
def countDown (b : Byte) : Byte := if 0 < b.toNat then b - 1 else b

/-- `TimerTick()` (60_exceptions.md R241). -/
def State.timerTick (s : State) : State := (s.writeDT (countDown s.dt)).writeST (countDown s.st)

/-- The last step of an iteration: the tick, exactly when it is due (60_exceptions.md R242, R247). -/
def State.tickIfDue (s : State) : State := if s.env.tickDue then s.timerTick else s

/-! ## The inputs -/

/-- The record the next poll delivers: the oldest one supplied, or the free one (00_scope.md R16; log entry 1). -/
def State.nextEnv (s : State) : Env :=
  match s.inputs with
  | [] => Config.freeEnv s.iter
  | e :: _ => e

/-- The poll (60_exceptions.md R247, R249). -/
def State.poll (s : State) : State :=
  { s with env := s.nextEnv, inputs := s.inputs.tail, iter := s.iter + 1 }

/-- `KeyDown(k)` (44_keypad_timers.md R200). -/
def State.keyDown (s : State) (k : Key) : Bool := s.env.keysDown.getLsbD k.val

end Sys2Proof.Machine
end

