-- ==== Sys2Proof/Machine/Operands.lean ====
section
/-! DEFINITION. The operand forms: immediates widened (30_encoding.md R93), the effective address (42_index_memory.md
R173), the register block of FX55 and FX65, the shift operand, the key index. -/

namespace Sys2Proof.Machine

/-- `zext_16(NNN)` (30_encoding.md R93). -/
def zextAddr (nnn : Addr) : Word := nnn.setWidth 16

/-- `zext_16` of a byte (00_scope.md R14). -/
def zextByte (b : Byte) : Word := b.setWidth 16

/-- The address of byte `k` of an access through `I`, "formed as the 16-bit sum" (42_index_memory.md R173). -/
def effAddr (base : Word) (k : Nat) : Word := base + BitVec.ofNat 16 k

/-- `V[0]` to `V[x]`, ascending, inclusive (42_index_memory.md R176, R177). -/
def regsUpTo (x : RegIdx) : List RegIdx := (List.finRange 16).filter (fun k => decide (k ≤ x))

/-- The operand of a shift: `V[Y]` when `shift_set_VY` is 1, else `V[X]` (41_alu.md R150, R152). -/
def State.shiftOperand (s : State) (x y : RegIdx) : Byte := if s.shiftSetVY then s.readV y else s.readV x

/-- `k = V[X] mod 16` (44_keypad_timers.md R208). -/
def keyIndex (b : Byte) : Key := ⟨b.toNat % 16, Nat.mod_lt _ (by decide)⟩

/-- The optional post-increment of FX55 and FX65: `I <- (base + X + 1) mod 65536` when the strap is 1
(42_index_memory.md R174). -/
def State.incrI (s : State) (base : Word) (x : RegIdx) : State :=
  if s.fx55IncrI then s.writeI (effAddr base (x.val + 1)) else s

end Sys2Proof.Machine
end

