-- ==== Sys2Proof/Machine/Flags.lean ====
section
/-! DEFINITION. The flag values VF receives (10_state.md R23; 41_alu.md R149 to R153) and the write of a result with its
flag (10_state.md R24). -/

namespace Sys2Proof.Machine

/-- VF is `V[15]` (10_state.md R21). -/
abbrev regVF : RegIdx := 15

/-- A condition as VF holds it: 0x00 or 0x01. -/
def flagByte (c : Bool) : Byte := if c then 0x01 else 0x00

/-- "1 if a > b else 0": strict, unsigned (41_alu.md R143, R149, R151). -/
def flagGreater (a b : Byte) : Byte := flagByte (decide (b.toNat < a.toNat))

/-- Bit 0 of the value shifted right (41_alu.md R150). -/
def flagShr (v : Byte) : Byte := flagByte (v.getLsbD 0)

/-- Bit 7 of the value shifted left (41_alu.md R152). -/
def flagShl (v : Byte) : Byte := flagByte (v.getLsbD 7)

/-- `V[X]` is written first and VF second (10_state.md R24). -/
def State.writeWithFlag (s : State) (x : RegIdx) (result flag : Byte) : State :=
  (s.writeV x result).writeV regVF flag

end Sys2Proof.Machine
end

