-- ==== Sys2Proof/Machine/Alu.lean ====
section
/-! DEFINITION. Register load, arithmetic, logic, shift and random instructions (41_alu.md). All operands are read from
the state the fetch step left, before either write (R140). -/

namespace Sys2Proof.Machine

/-- 6XNN, load immediate (R141). -/
def exec6XNN (x : RegIdx) (nn : Byte) (s : State) : Result := .next (s.writeV x nn)

/-- 7XNN, add immediate, VF not written (R142). -/
def exec7XNN (x : RegIdx) (nn : Byte) (s : State) : Result := .next (s.writeV x (s.readV x + nn))

/-- 8XY0, copy register (R144). -/
def exec8XY0 (x y : RegIdx) (s : State) : Result := .next (s.writeV x (s.readV y))

/-- 8XY1, bitwise OR, VF not written (R145). -/
def exec8XY1 (x y : RegIdx) (s : State) : Result := .next (s.writeV x (s.readV x ||| s.readV y))

/-- 8XY2, bitwise AND, VF not written (R146). -/
def exec8XY2 (x y : RegIdx) (s : State) : Result := .next (s.writeV x (s.readV x &&& s.readV y))

/-- 8XY3, bitwise XOR, VF not written (R147). -/
def exec8XY3 (x y : RegIdx) (s : State) : Result := .next (s.writeV x (s.readV x ^^^ s.readV y))

/-- 8XY4, add registers, VF not written (R148). -/
def exec8XY4 (x y : RegIdx) (s : State) : Result := .next (s.writeV x (s.readV x + s.readV y))

/-- 8XY5, subtract (R149). -/
def exec8XY5 (x y : RegIdx) (s : State) : Result :=
  .next (s.writeWithFlag x (s.readV x - s.readV y) (flagGreater (s.readV x) (s.readV y)))

/-- 8XY6, shift right by one (R150). -/
def exec8XY6 (x y : RegIdx) (s : State) : Result :=
  .next (s.writeWithFlag x (s.shiftOperand x y >>> 1) (flagShr (s.shiftOperand x y)))

/-- 8XY7, reverse subtract (R151). -/
def exec8XY7 (x y : RegIdx) (s : State) : Result :=
  .next (s.writeWithFlag x (s.readV y - s.readV x) (flagGreater (s.readV y) (s.readV x)))

/-- 8XYE, shift left by one (R152). -/
def exec8XYE (x y : RegIdx) (s : State) : Result :=
  .next (s.writeWithFlag x (s.shiftOperand x y <<< 1) (flagShl (s.shiftOperand x y)))

/-- CXNN, random (R154). -/
def execCXNN (x : RegIdx) (nn : Byte) (s : State) : Result := .next (s.writeV x (s.env.rand &&& nn))

end Sys2Proof.Machine
end

