-- ==== Sys2Proof/Machine/Display.lean ====
section
/-! DEFINITION. The display instructions (43_display.md). -/

namespace Sys2Proof.Machine

/-- 00E0, clear display (R194). -/
def exec00E0 (s : State) : Result := .next s.dispClear

/-- A draw in progress: the framebuffer, and whether a pixel has been turned off. -/
structure Draw where
  fb  : Framebuffer
  off : Bool
  deriving DecidableEq, Repr

/-- One set bit of a sprite: `off <- DispFlip(x, y)`, and once 1 the collision stays 1 (R195, R196 (g)). -/
def Draw.flip (d : Draw) (x : Fin 64) (y : Fin 32) : Draw :=
  { fb := dispFlip d.fb x y, off := d.off || dispFlipOff d.fb x y }

/-- The bit loop of one row: bit 0 of the loop is the most significant bit; it stops at the right edge (R195). -/
def Draw.bits (byte : Byte) (x0 : Nat) (y : Fin 32) : List (Fin 8) → Draw → Draw
  | [], d => d
  | bit :: rest, d =>
    if h : x0 + bit.val < 64 then
      Draw.bits byte x0 y rest (if byte.getLsbD (7 - bit.val) then d.flip ⟨x0 + bit.val, h⟩ y else d)
    else d

/-- The row loop: it stops the whole draw at the bottom edge (R195). -/
def Draw.rows (sprite : Nat → Byte) (x0 y0 : Nat) : List Nat → Draw → Draw
  | [], d => d
  | row :: rest, d =>
    if h : y0 + row < 32 then
      Draw.rows sprite x0 y0 rest (Draw.bits (sprite row) x0 ⟨y0 + row, h⟩ (List.finRange 8) d)
    else d

/-- The draw of DXYN: start column `V[X] mod 64`, start row `V[Y] mod 32`, sprite byte `row` at `I + row` (R195). -/
def State.drawSprite (s : State) (x y : RegIdx) (n : Fin 16) : Draw :=
  Draw.rows (fun row => s.memRead (effAddr s.ireg row)) ((s.readV x).toNat % 64) ((s.readV y).toNat % 32)
    (List.range n.val) { fb := s.fb, off := false }

/-- DXYN, draw sprite: the coordinates come from the registers as they were before VF is written (R195). -/
def execDXYN (x y : RegIdx) (n : Fin 16) (s : State) : Result :=
  let d := s.drawSprite x y n
  .next ((s.setFB d.fb).writeV regVF (flagByte d.off))

end Sys2Proof.Machine
end

