-- ==== Sys2Proof/Machine/Flow.lean ====
section
/-! DEFINITION. Control transfer (40_flow.md). `PC` already holds the address of the following instruction. -/

namespace Sys2Proof.Machine

/-- 00EE, return (R120). -/
def exec00EE (s : State) : Result := .next (s.popState.writePC s.popValue)

/-- 1NNN, jump (R121). -/
def exec1NNN (nnn : Addr) (s : State) : Result := .next (s.writePC (zextAddr nnn))

/-- 2NNN, call (R122). -/
def exec2NNN (nnn : Addr) (s : State) : Result := .next ((s.push s.pc).writePC (zextAddr nnn))

/-- BNNN, jump with offset (R123). -/
def execBNNN (nnn : Addr) (s : State) : Result := .next (s.writePC (zextAddr nnn + zextByte (s.readV 0)))

/-- 3XNN, skip if equal to immediate (R124). -/
def exec3XNN (x : RegIdx) (nn : Byte) (s : State) : Result := .next (s.skipIf (decide (s.readV x = nn)))

/-- 4XNN, skip if not equal to immediate (R125). -/
def exec4XNN (x : RegIdx) (nn : Byte) (s : State) : Result := .next (s.skipIf (decide (s.readV x ≠ nn)))

/-- 5XY0, skip if registers equal (R126). -/
def exec5XY0 (x y : RegIdx) (s : State) : Result := .next (s.skipIf (decide (s.readV x = s.readV y)))

/-- 9XY0, skip if registers differ (R127). -/
def exec9XY0 (x y : RegIdx) (s : State) : Result := .next (s.skipIf (decide (s.readV x ≠ s.readV y)))

end Sys2Proof.Machine
end

