-- ==== Sys2Proof/Machine/IndexMemory.lean ====
section
/-! DEFINITION. Index register and memory instructions (42_index_memory.md). -/

namespace Sys2Proof.Machine

/-- ANNN, load index (R170). -/
def execANNN (nnn : Addr) (s : State) : Result := .next (s.writeI (zextAddr nnn))

/-- FX1E, add to index, all 16 bits kept, VF not written (R171). -/
def execFX1E (x : RegIdx) (s : State) : Result := .next (s.writeI (s.ireg + zextByte (s.readV x)))

/-- FX29, point at font glyph, all 8 bits of `V[X]` used (R172). -/
def execFX29 (x : RegIdx) (s : State) : Result := .next (s.writeI (fontBase + 5 * zextByte (s.readV x)))

/-- The hundreds, tens and ones of a byte, each as a byte (R175). -/
def bcdDigits (b : Byte) : Byte × Byte × Byte :=
  (BitVec.ofNat 8 (b.toNat / 100), BitVec.ofNat 8 (b.toNat / 10 % 10), BitVec.ofNat 8 (b.toNat % 10))

/-- FX33, store binary-coded decimal (R175). -/
def execFX33 (x : RegIdx) (s : State) : Result :=
  let digits := bcdDigits (s.readV x)
  .next (((s.memWrite (effAddr s.ireg 0) digits.1).memWrite (effAddr s.ireg 1) digits.2.1).memWrite
    (effAddr s.ireg 2) digits.2.2)

/-- The stores of FX55, in the order listed (R176). -/
def State.storeRegs (base : Word) : List RegIdx → State → State
  | [], s => s
  | k :: ks, s => State.storeRegs base ks (s.memWrite (effAddr base k.val) (s.readV k))

/-- FX55, store registers (R176). -/
def execFX55 (x : RegIdx) (s : State) : Result :=
  .next ((State.storeRegs s.ireg (regsUpTo x) s).incrI s.ireg x)

/-- The loads of FX65, in the order listed (R177). -/
def State.loadRegs (base : Word) : List RegIdx → State → State
  | [], s => s
  | k :: ks, s => State.loadRegs base ks (s.writeV k (s.memRead (effAddr base k.val)))

/-- FX65, load registers (R177). -/
def execFX65 (x : RegIdx) (s : State) : Result :=
  .next ((State.loadRegs s.ireg (regsUpTo x) s).incrI s.ireg x)

end Sys2Proof.Machine
end

