-- ==== Sys2Proof/Machine/KeypadTimers.lean ====
section
/-! DEFINITION. The keypad and timer instructions (44_keypad_timers.md). -/

namespace Sys2Proof.Machine

/-- EX9E, skip if key down (R201). -/
def execEX9E (x : RegIdx) (s : State) : Result := .next (s.skipIf (s.keyDown (keyIndex (s.readV x))))

/-- EXA1, skip if key not down (R202). -/
def execEXA1 (x : RegIdx) (s : State) : Result := .next (s.skipIf (!s.keyDown (keyIndex (s.readV x))))

/-- FX07, read delay timer (R204). -/
def execFX07 (x : RegIdx) (s : State) : Result := .next (s.writeV x s.dt)

/-- What FX0A does with the key reported at this iteration's poll (R203). -/
def State.awaitKey (s : State) (x : RegIdx) : Option Key → State
  | none => s.writePC (s.pc - 2)
  | some k => s.writeV x (BitVec.ofNat 8 k.val)

/-- FX0A, wait for key press (R203). -/
def execFX0A (x : RegIdx) (s : State) : Result := .next (s.awaitKey x s.env.keyPressed)

/-- FX15, set delay timer (R205). -/
def execFX15 (x : RegIdx) (s : State) : Result := .next (s.writeDT (s.readV x))

/-- FX18, set sound timer (R206). -/
def execFX18 (x : RegIdx) (s : State) : Result := .next (s.writeST (s.readV x))

end Sys2Proof.Machine
end

