-- ==== Sys2Proof/Machine/Unrecognized.lean ====
section
/-! DEFINITION. The unrecognized opcode (45_unrecognized.md). -/

namespace Sys2Proof.Machine

/-- UNRECOGNIZED: "report diagnostically; PC has already advanced; execution continues (non-fatal)" (R220). -/
def execUnrecognized (op : Word) (s : State) : Result := .next (s.diag .unrecognizedOpcode op)

end Sys2Proof.Machine
end

