-- ==== Sys2Proof/Machine/Cycle.lean ====
section
/-! DEFINITION. One cycle and one iteration of the loop (30_encoding.md R90, 60_exceptions.md R247). -/

namespace Sys2Proof.Machine

/-- `Execute` of what the decoder answers (30_encoding.md R90, R95). -/
def execDecoded (d : Decoded) (s : State) : Result :=
  match d with
  | .instruction i => exec i s
  | .unrecognized op => execUnrecognized op s

/-- `Cycle`: fetch, `PC + 2`, decode, execute (30_encoding.md R90). -/
def cycle (s : State) : Result := execDecoded (decode s.fetchWord) s.advance

/-- What follows a cycle that completed: render, then the tick if it is due (60_exceptions.md R247). -/
def afterCycle : Result → Result
  | .next s => .next s.dispRender.tickIfDue
  | .fault f => .fault f
  | .refused r => .refused r

/-- What follows the poll: the stop on a quit request, else one cycle, render and tick (60_exceptions.md R247, R250). -/
def afterPoll (s : State) : Result := if s.env.quit then .next s.stop else afterCycle (cycle s)

/-- `Iteration` (60_exceptions.md R247); with `RUN = 0` "nothing happens". -/
def iteration (s : State) : Result := if s.run then afterPoll s.poll else .next s

/-- The bytes of an opcode stored where the next cycle fetches: `PC` and `PC + 1` (20_memory.md R66). -/
def State.placeWord (s : State) (op : Word) : State :=
  (s.memWrite s.pc (wordBytes op).1).memWrite (s.pc + 1) (wordBytes op).2

/-- The machine running, with an input record at hand that does not ask it to quit: the oldest one supplied with its quit
bit cleared, or the quiet one (log entry 1). -/
def State.keepRunning (s : State) : State :=
  { s with
    run := true
    inputs := match s.inputs with
      | [] => [Env.quiet]
      | e :: rest => { e with quit := false } :: rest }

end Sys2Proof.Machine
end

