-- ==== Sys2Proof/Machine/Step.lean ====
section
/-! DEFINITION. One step of the machine is one iteration of the loop (60_exceptions.md R247). -/

namespace Sys2Proof.Machine

/-- One iteration. -/
def step (s : State) : Host.Outcome State Fault Refusal := iteration s

/-- `s` with a table word placed where the next step fetches, and all that this step needs to reach its fetch: `RUN = 1`
and a record without a quit request (60_exceptions.md R247; log entries 1 and 2). -/
def State.withFetchWord (s : State) (nbits w : Nat) : State := (s.placeWord (tableWord nbits w)).keepRunning

end Sys2Proof.Machine
end

