-- ==== Sys2Proof/Machine/Launch.lean ====
section
/-! DEFINITION. Reset with any configuration (70_reset_and_hazards.md R260 to R262, R265). -/

namespace Sys2Proof.Machine

/-- The memory image at reset: zeros, then the font, then the ROM (R262). -/
def Memory.image (c : Config) : Memory :=
  Memory.load (Memory.load [] fontBase.toNat c.fontData) romBase.toNat c.rom

/-- The state after a reset with the configuration `c` (R260, R261); no launch when the font does not have 80 bytes or the
ROM is longer than 3584 bytes (00_scope.md R9, R10). -/
def launch (c : Config) : Option State :=
  if c.wf then
    some { State.reset with
      mem := Memory.image c
      shiftSetVY := c.shiftSetVY
      fx55IncrI := c.fx55IncrI
      fb := c.fb0 }
  else none

end Sys2Proof.Machine
end

