-- ==== Sys2Proof/Safety.lean ====
section
/-! DEFINITION. The terms claims are stated in: the parts of the state and their frames, the invariant, which parts and
registers an instruction may write, runs of several iterations, what cannot be observed. -/

namespace Sys2Proof.Machine

/-! ## Frames -/

/-- The parts of the state a frame speaks of. -/
inductive Part where
  | regs | index | pc | stack | mem | dt | st | run | straps | fb | env | inputs | diags
  deriving DecidableEq, Repr

/-- The part reads the same after as before; memory through its read of one byte. -/
def Part.unchanged : Part → State → State → Prop
  | .regs, s, t => ∀ r, t.readV r = s.readV r
  | .index, s, t => t.ireg = s.ireg
  | .pc, s, t => t.pc = s.pc
  | .stack, s, t => t.sp = s.sp ∧ t.stk = s.stk
  | .mem, s, t => ∀ a, t.memRead a = s.memRead a
  | .dt, s, t => t.dt = s.dt
  | .st, s, t => t.st = s.st
  | .run, s, t => t.run = s.run
  | .straps, s, t => t.shiftSetVY = s.shiftSetVY ∧ t.fx55IncrI = s.fx55IncrI
  | .fb, s, t => t.fb = s.fb
  | .env, s, t => t.env = s.env
  | .inputs, s, t => t.inputs = s.inputs ∧ t.iter = s.iter
  | .diags, s, t => t.diags = s.diags

/-- Every part outside the list is unchanged. -/
def KeepsAllBut (ps : List Part) (s t : State) : Prop := ∀ p, p ∉ ps → p.unchanged s t

/-- Every register outside the list is unchanged. -/
def KeepsOtherRegs (rs : List RegIdx) (s t : State) : Prop := ∀ r, r ∉ rs → t.readV r = s.readV r

/-- Every byte outside the cells of the `n` addresses from `base` on is unchanged. -/
def KeepsBytesOutside (base : Word) (n : Nat) (s t : State) : Prop :=
  ∀ a, (∀ k, k < n → cellOf a ≠ cellOf (effAddr base k)) → t.memRead a = s.memRead a

/-- Which parts the rule of an instruction may write. -/
def mayChange : Instr → List Part
  | .op00E0 => [.fb]
  | .op00EE => [.pc, .stack, .diags]
  | .op1NNN _ => [.pc]
  | .op2NNN _ => [.pc, .stack, .diags]
  | .op3XNN _ _ => [.pc]
  | .op4XNN _ _ => [.pc]
  | .op5XY0 _ _ => [.pc]
  | .op6XNN _ _ => [.regs]
  | .op7XNN _ _ => [.regs]
  | .op8XY0 _ _ => [.regs]
  | .op8XY1 _ _ => [.regs]
  | .op8XY2 _ _ => [.regs]
  | .op8XY3 _ _ => [.regs]
  | .op8XY4 _ _ => [.regs]
  | .op8XY5 _ _ => [.regs]
  | .op8XY6 _ _ => [.regs]
  | .op8XY7 _ _ => [.regs]
  | .op8XYE _ _ => [.regs]
  | .op9XY0 _ _ => [.pc]
  | .opANNN _ => [.index]
  | .opBNNN _ => [.pc]
  | .opCXNN _ _ => [.regs]
  | .opDXYN _ _ _ => [.regs, .fb]
  | .opEX9E _ => [.pc]
  | .opEXA1 _ => [.pc]
  | .opFX07 _ => [.regs]
  | .opFX0A _ => [.regs, .pc]
  | .opFX15 _ => [.dt]
  | .opFX18 _ => [.st]
  | .opFX1E _ => [.index]
  | .opFX29 _ => [.index]
  | .opFX33 _ => [.mem]
  | .opFX55 _ => [.mem, .index]
  | .opFX65 _ => [.regs, .index]

/-- Which V registers an instruction may write: the last column of the table under 10_state.md R27. -/
def destRegs : Instr → List RegIdx
  | .op6XNN x _ => [x]
  | .op7XNN x _ => [x]
  | .op8XY0 x _ => [x]
  | .op8XY1 x _ => [x]
  | .op8XY2 x _ => [x]
  | .op8XY3 x _ => [x]
  | .op8XY4 x _ => [x]
  | .op8XY5 x _ => [x, regVF]
  | .op8XY6 x _ => [x, regVF]
  | .op8XY7 x _ => [x, regVF]
  | .op8XYE x _ => [x, regVF]
  | .opCXNN x _ => [x]
  | .opDXYN _ _ _ => [regVF]
  | .opFX07 x => [x]
  | .opFX0A x => [x]
  | .opFX65 x => regsUpTo x
  | _ => []

/-- The instructions that read a keypad answer or the random byte (20_memory.md R63). -/
def readsInputs : Instr → Bool
  | .opCXNN _ _ => true
  | .opEX9E _ => true
  | .opEXA1 _ => true
  | .opFX0A _ => true
  | _ => false

/-- Where an instruction leaves `PC`: the table of 10_state.md R29, with `n` the advanced `PC` of the state. -/
def pcAfter (i : Instr) (s : State) : Word :=
  match i with
  | .op00EE => s.popValue
  | .op1NNN nnn => zextAddr nnn
  | .op2NNN nnn => zextAddr nnn
  | .opBNNN nnn => zextAddr nnn + zextByte (s.readV 0)
  | .op3XNN x nn => if s.readV x = nn then s.pc + 2 else s.pc
  | .op4XNN x nn => if s.readV x = nn then s.pc else s.pc + 2
  | .op5XY0 x y => if s.readV x = s.readV y then s.pc + 2 else s.pc
  | .op9XY0 x y => if s.readV x = s.readV y then s.pc else s.pc + 2
  | .opEX9E x => if s.keyDown (keyIndex (s.readV x)) then s.pc + 2 else s.pc
  | .opEXA1 x => if s.keyDown (keyIndex (s.readV x)) then s.pc else s.pc + 2
  | .opFX0A _ => if s.env.keyPressed.isSome then s.pc else s.pc - 2
  | _ => s.pc

/-! ## The sprite of DXYN -/

/-- The sprite bit that falls on a pixel of the screen, if one does: row `py - y0`, bit `px - x0` from the most
significant, nothing beyond the `n` rows, the 8 columns or the edges (43_display.md R195, R196). -/
def spriteBit (s : State) (x y : RegIdx) (n : Fin 16) (px : Fin 64) (py : Fin 32) : Bool :=
  let x0 := (s.readV x).toNat % 64
  let y0 := (s.readV y).toNat % 32
  decide (y0 ≤ py.val) && decide (py.val < y0 + n.val) && decide (x0 ≤ px.val) && decide (px.val < x0 + 8) &&
    (s.memRead (s.ireg + BitVec.ofNat 16 (py.val - y0))).getLsbD (7 - (px.val - x0))

/-! ## Iterations -/

/-- The machine runs and its next poll sees no quit request. -/
def State.willRun (s : State) : Bool := s.run && !s.nextEnv.quit

/-- The state the execute step of the next cycle starts from: polled, and `PC` advanced. -/
def State.fetched (s : State) : State := s.poll.advance

/-- The diagnostics of the next cycle (60_exceptions.md R233). -/
def State.anomaly (s : State) : List Diag :=
  match decode s.fetchWord with
  | .unrecognized op => [⟨.unrecognizedOpcode, op⟩]
  | .instruction (.op2NNN _) => if s.sp.val = 16 then [⟨.stackOverflow, s.pc + 2⟩] else []
  | .instruction .op00EE => if s.sp.val = 0 then [⟨.stackUnderflow, 0⟩] else []
  | .instruction _ => []

/-- `n` iterations. -/
def iterations : Nat → State → Result
  | 0, s => .next s
  | n + 1, s =>
    match step s with
    | .next u => iterations n u
    | .fault f => .fault f
    | .refused r => .refused r

/-- 1 when the next iteration ticks the timers, else 0. -/
def State.ticks (s : State) : Nat := if s.willRun && s.nextEnv.tickDue then 1 else 0

/-- The next cycle executes FX15. -/
def State.setsDelay (s : State) : Prop := ∃ x, decode s.fetchWord = .instruction (.opFX15 x)

/-- A run, of any number of iterations none of which executes FX15, with its number of ticks. -/
inductive DelayRun : State → Nat → State → Prop where
  | nil (s : State) : DelayRun s 0 s
  | cons {s u t : State} {k : Nat} (quiet : ¬ s.setsDelay) (one : step s = .next u) (rest : DelayRun u k t) :
      DelayRun s (s.ticks + k) t

/-- The two states agree on everything but `ST` and the diagnostics. -/
def SameProgramView (s t : State) : Prop := t = { s with st := t.st, diags := t.diags }

/-! ## The invariant -/

/-- What a diagnostic in the log may say (60_exceptions.md R233). -/
def Diag.legal (d : Diag) : Bool :=
  match d.code with
  | .unrecognizedOpcode => decide (decode d.info = .unrecognized d.info)
  | .stackOverflow => true
  | .stackUnderflow => decide (d.info = 0)

/-- Memory is in its canonical form, `RUN` is 0 exactly when the last poll saw a quit request (10_state.md R39), and every
diagnostic is one of R233. -/
def State.Inv (s : State) : Prop :=
  s.mem.wf = true ∧ s.run = !s.env.quit ∧ ∀ d ∈ s.diags, d.legal = true

/-- A step that stays inside the instruction set: "no diagnostic was emitted" (45_unrecognized.md R221). -/
def CleanStep (s : State) : Prop := ∃ t, step s = .next t ∧ t.diags = s.diags

end Sys2Proof.Machine
end

