-- ==== Sys2Proof/Certificates/Slice0/Obligations.lean ====
section
/-! DEFINITION. The statements for the provers, from the numbered rules of spec/. A state that `exec` starts from is the
one the fetch step left: its `pc` is the address of the following instruction (30_encoding.md R90). -/

open Sys2Proof Sys2Proof.Machine

/-! ## Encoding -/

/-- R95, R96, R101: decoding the word of any instruction, with any operands, gives that instruction back. -/
def Obligations.DecodeOfEncodeIsTheInstruction : Prop :=
  ∀ i : Instr, decode (encode i) = .instruction i

/-- R95, R96: a word that decodes to an instruction is the word of that instruction: no two words share a meaning, and no
bit of a recognized word is dropped. -/
def Obligations.EncodeOfDecodeIsTheWord : Prop :=
  ∀ (op : Word) (i : Instr), decode op = .instruction i → encode i = op

/-- R96: a word selects a row of the opcode map exactly when it decodes to an instruction of that row. -/
def Obligations.DecoderFollowsTheOpcodeMap : Prop :=
  (∀ (op : Word) (i : Instr), decode op = .instruction i → i.row ∈ opcodeMap ∧ i.row.selects op = true) ∧
  (∀ (op : Word) (row : OpcodeRow), row ∈ opcodeMap → row.selects op = true →
    ∃ i, decode op = .instruction i ∧ i.row = row) ∧
  (∀ op : Word, (∀ row ∈ opcodeMap, row.selects op = false) → decode op = .unrecognized op)

/-- How many words of each class select an instruction: the counts of 30_encoding.md R97, which the spec derives. -/
def Obligations.RecognizedWordsPerClass : Prop :=
  ∀ c : Fin 16,
    ((List.range 4096).filter (fun k => decide (decode (BitVec.ofNat 16 (4096 * c.val + k)) ≠
        .unrecognized (BitVec.ofNat 16 (4096 * c.val + k))))).length =
      [2, 4096, 4096, 4096, 4096, 256, 4096, 4096, 2304, 256, 4096, 4096, 4096, 4096, 32, 144].getD c.val 0

/-- Every field view of every pair of bytes (30_encoding.md R91); that nibble 1 is the upper half of the first byte is the
spec's own derivation. -/
def Obligations.FieldViewsOfTheTwoBytes : Prop :=
  ∀ b1 b2 : Byte,
    (fieldC (opcodeOf b1 b2)).toNat = b1.toNat / 16 ∧
    (fieldX (opcodeOf b1 b2)).val = b1.toNat % 16 ∧
    (fieldY (opcodeOf b1 b2)).val = b2.toNat / 16 ∧
    (fieldN (opcodeOf b1 b2)).val = b2.toNat % 16 ∧
    fieldNN (opcodeOf b1 b2) = b2 ∧
    zextAddr (fieldNNN (opcodeOf b1 b2)) = (((b1 &&& 0xF).setWidth 16) <<< 8) ||| b2.setWidth 16

/-- Words written out from the patterns of R96, one or more of each format, and unrecognized neighbours (R98). -/
def Obligations.WrittenOutWordsDecode : Prop :=
  decode 0x00E0 = .instruction .op00E0 ∧
  decode 0x00EE = .instruction .op00EE ∧
  decode 0x1234 = .instruction (.op1NNN 0x234) ∧
  decode 0x3A05 = .instruction (.op3XNN 0xA 0x05) ∧
  decode 0x8127 = .instruction (.op8XY7 1 2) ∧
  decode 0x9AB0 = .instruction (.op9XY0 0xA 0xB) ∧
  decode 0xA2F0 = .instruction (.opANNN 0x2F0) ∧
  decode 0xD7A3 = .instruction (.opDXYN 7 0xA 3) ∧
  decode 0xEFA1 = .instruction (.opEXA1 0xF) ∧
  decode 0xF30A = .instruction (.opFX0A 3) ∧
  decode 0xFF65 = .instruction (.opFX65 0xF) ∧
  decode 0x0000 = .unrecognized 0x0000 ∧
  decode 0x5121 = .unrecognized 0x5121 ∧
  decode 0x812F = .unrecognized 0x812F ∧
  decode 0xE09F = .unrecognized 0xE09F ∧
  decode 0xF090 = .unrecognized 0xF090

/-! ## Memory and fetch -/

/-- R66: the opcode is the byte at `PC` over the byte at `PC + 1`, and the fetch step adds 2 to `PC` modulo 65536 and
changes nothing else. -/
def Obligations.FetchIsBigEndianAndAdvancesByTwo : Prop :=
  ∀ s : State,
    s.fetchWord.toNat = 256 * (s.memRead s.pc).toNat + (s.memRead (s.pc + 1)).toNat ∧
    s.advance.pc.toNat = (s.pc.toNat + 2) % 65536 ∧
    KeepsAllBut [.pc] s s.advance

/-- A byte written is read back at every address that is the same modulo 4096, every other byte reads as before, and
nothing but memory changes (20_memory.md R61). That memory has a canonical form, and that a write keeps it, is the model's
own representation: log entry 2, DESIGN CHOICE. -/
def Obligations.ReadAfterWrite : Prop :=
  ∀ (s : State) (a b : Word) (v : Byte), s.mem.wf = true →
    (s.memWrite a v).memRead b = (if a.toNat % 4096 = b.toNat % 4096 then v else s.memRead b) ∧
    (s.memWrite a v).mem.wf = true ∧
    KeepsAllBut [.mem] s (s.memWrite a v)

/-- The bytes FX33 stores at `PC` are the bytes the next fetch reads (20_memory.md R78, which the spec derives). -/
def Obligations.NextFetchSeesAStore : Prop :=
  ∀ (s : State) (x : RegIdx), s.mem.wf = true → s.ireg = s.pc →
    ∃ t, exec (.opFX33 x) s = .next t ∧
      t.fetchWord.toNat = 256 * ((s.readV x).toNat / 100) + (s.readV x).toNat / 10 % 10

/-! ## Control transfer -/

/-- 00EE pops the program counter (40_flow.md R120); on an empty stack it goes to 0 and says so. That a popped entry keeps
its bits is 10_state.md R34. The empty-stack policy with its diagnostic is the spec's own decision D8, the code and the
information word are D19 (log entry 9), and the list `diags` is the model's (log entry 7). -/
def Obligations.ReturnPopsTheProgramCounter : Prop :=
  ∀ s : State, ∃ t, exec .op00EE s = .next t ∧
    (∀ k : Fin 16, s.sp.val = k.val + 1 → t.pc = s.stk[k.val] ∧ t.sp.val = k.val ∧ t.diags = s.diags) ∧
    (s.sp.val = 0 → t.pc = 0 ∧ t.sp.val = 0 ∧ t.diags = s.diags ++ [⟨.stackUnderflow, 0⟩]) ∧
    t.stk = s.stk ∧
    KeepsAllBut [.pc, .stack, .diags] s t

/-- R121, R123: 1NNN goes to NNN and BNNN to NNN + V[0], unreduced; nothing else changes. -/
def Obligations.JumpsReplaceTheProgramCounter : Prop :=
  ∀ (s : State) (nnn : Addr),
    (∃ t, exec (.op1NNN nnn) s = .next t ∧ t.pc.toNat = nnn.toNat ∧ KeepsAllBut [.pc] s t) ∧
    (∃ t, exec (.opBNNN nnn) s = .next t ∧ t.pc.toNat = nnn.toNat + (s.readV 0).toNat ∧ KeepsAllBut [.pc] s t)

/-- 2NNN pushes the advanced `PC` and jumps (40_flow.md R122); with 16 entries the push is dropped with a diagnostic that
carries the dropped address, and the jump is still taken. The full-stack policy with its diagnostic is the spec's own
decision D8 (10_state.md R33), the code and the information word are D19 (log entry 9), and the list `diags` is the model's
(log entry 7). -/
def Obligations.CallPushesTheReturnAddress : Prop :=
  ∀ (s : State) (nnn : Addr), ∃ t, exec (.op2NNN nnn) s = .next t ∧
    t.pc.toNat = nnn.toNat ∧
    (∀ k : Fin 16, s.sp.val = k.val → t.sp.val = k.val + 1 ∧ t.stk[k.val] = s.pc ∧
      (∀ j : Fin 16, j ≠ k → t.stk[j.val] = s.stk[j.val]) ∧ t.diags = s.diags) ∧
    (s.sp.val = 16 → t.sp = s.sp ∧ t.stk = s.stk ∧ t.diags = s.diags ++ [⟨.stackOverflow, s.pc⟩]) ∧
    KeepsAllBut [.pc, .stack, .diags] s t

/-- R120 (the source's call and return round trip): from a stack that is not full, 2NNN and then 00EE, executed wherever
the call went, restore `PC` and the depth, and touch no other entry. -/
def Obligations.CallThenReturnRestoresThePC : Prop :=
  ∀ (s : State) (nnn : Addr) (k : Fin 16), s.sp.val = k.val →
    ∃ t u, exec (.op2NNN nnn) s = .next t ∧ exec .op00EE t.advance = .next u ∧
      u.pc = s.pc ∧ u.sp = s.sp ∧
      (∀ j : Fin 16, j ≠ k → u.stk[j.val] = s.stk[j.val]) ∧
      KeepsAllBut [.stack] s u

/-- R124, R125, R128: 3XNN and 4XNN add 2 to `PC` modulo 65536 exactly when their condition holds. -/
def Obligations.ImmediateSkips : Prop :=
  ∀ (s : State) (x : RegIdx) (nn : Byte),
    (∃ t, exec (.op3XNN x nn) s = .next t ∧
      t.pc.toNat = (if s.readV x = nn then (s.pc.toNat + 2) % 65536 else s.pc.toNat) ∧ KeepsAllBut [.pc] s t) ∧
    (∃ t, exec (.op4XNN x nn) s = .next t ∧
      t.pc.toNat = (if s.readV x = nn then s.pc.toNat else (s.pc.toNat + 2) % 65536) ∧ KeepsAllBut [.pc] s t)

/-- R126, R127, R128: 5XY0 and 9XY0 add 2 to `PC` modulo 65536 exactly when their condition holds. -/
def Obligations.RegisterSkips : Prop :=
  ∀ (s : State) (x y : RegIdx),
    (∃ t, exec (.op5XY0 x y) s = .next t ∧
      t.pc.toNat = (if s.readV x = s.readV y then (s.pc.toNat + 2) % 65536 else s.pc.toNat) ∧ KeepsAllBut [.pc] s t) ∧
    (∃ t, exec (.op9XY0 x y) s = .next t ∧
      t.pc.toNat = (if s.readV x = s.readV y then s.pc.toNat else (s.pc.toNat + 2) % 65536) ∧ KeepsAllBut [.pc] s t)

/-! ## Registers, arithmetic, logic -/

/-- R141, R142, R144: 6XNN, 7XNN and 8XY0 write V[X], any X, and nothing else (so not VF unless X is 0xF). -/
def Obligations.LoadAddImmediateAndCopy : Prop :=
  ∀ (s : State) (x y : RegIdx) (nn : Byte),
    (∃ t, exec (.op6XNN x nn) s = .next t ∧ t.readV x = nn ∧ KeepsOtherRegs [x] s t ∧ KeepsAllBut [.regs] s t) ∧
    (∃ t, exec (.op7XNN x nn) s = .next t ∧ (t.readV x).toNat = ((s.readV x).toNat + nn.toNat) % 256 ∧
      KeepsOtherRegs [x] s t ∧ KeepsAllBut [.regs] s t) ∧
    (∃ t, exec (.op8XY0 x y) s = .next t ∧ t.readV x = s.readV y ∧ KeepsOtherRegs [x] s t ∧ KeepsAllBut [.regs] s t)

/-- R145, R146, R147: 8XY1, 8XY2 and 8XY3 bit by bit; VF is not reset. -/
def Obligations.LogicInstructionsBitByBit : Prop :=
  ∀ (s : State) (x y : RegIdx),
    (∃ t, exec (.op8XY1 x y) s = .next t ∧
      (∀ k, (t.readV x).getLsbD k = ((s.readV x).getLsbD k || (s.readV y).getLsbD k)) ∧
      KeepsOtherRegs [x] s t ∧ KeepsAllBut [.regs] s t) ∧
    (∃ t, exec (.op8XY2 x y) s = .next t ∧
      (∀ k, (t.readV x).getLsbD k = ((s.readV x).getLsbD k && (s.readV y).getLsbD k)) ∧
      KeepsOtherRegs [x] s t ∧ KeepsAllBut [.regs] s t) ∧
    (∃ t, exec (.op8XY3 x y) s = .next t ∧
      (∀ k, (t.readV x).getLsbD k = ((s.readV x).getLsbD k ^^ (s.readV y).getLsbD k)) ∧
      KeepsOtherRegs [x] s t ∧ KeepsAllBut [.regs] s t)

/-- 8XY4 adds modulo 256 and writes no flag; with X = 0xF the sum is what VF holds. That VF stays is the spec's own
decision D6 (90_conflicts.md C5). -/
def Obligations.AddRegistersSetsNoCarry : Prop :=
  ∀ (s : State) (x y : RegIdx), ∃ t, exec (.op8XY4 x y) s = .next t ∧
    (t.readV x).toNat = ((s.readV x).toNat + (s.readV y).toNat) % 256 ∧
    KeepsOtherRegs [x] s t ∧ KeepsAllBut [.regs] s t

/-- The difference modulo 256 in V[X] (X not 0xF), and in VF, for every X and Y, the strict comparison of the old operands
(41_alu.md R149, R151). What happens with X = 0xF or Y = 0xF rests on the spec's own decision D5 (R24, R140; log
entry 9). -/
def Obligations.SubtractAndItsFlag : Prop :=
  ∀ (s : State) (x y : RegIdx),
    (∃ t, exec (.op8XY5 x y) s = .next t ∧
      (x ≠ 15 → (t.readV x).toNat = ((s.readV x).toNat + (256 - (s.readV y).toNat)) % 256) ∧
      (t.readV 15).toNat = (if (s.readV y).toNat < (s.readV x).toNat then 1 else 0) ∧
      KeepsOtherRegs [x, 15] s t ∧ KeepsAllBut [.regs] s t) ∧
    (∃ t, exec (.op8XY7 x y) s = .next t ∧
      (x ≠ 15 → (t.readV x).toNat = ((s.readV y).toNat + (256 - (s.readV x).toNat)) % 256) ∧
      (t.readV 15).toNat = (if (s.readV x).toNat < (s.readV y).toNat then 1 else 0) ∧
      KeepsOtherRegs [x, 15] s t ∧ KeepsAllBut [.regs] s t)

/-- The shifts, on V[Y] when the strap `shift_set_VY` is 1, else on V[X]; VF, for every X and Y, is the bit shifted out of
the old operand (41_alu.md R150, R152). What happens with X = 0xF or Y = 0xF rests on the spec's own decision D5 (R24, R140;
log entry 9). -/
def Obligations.ShiftsAndTheirFlag : Prop :=
  ∀ (s : State) (x y : RegIdx) (v : Byte), v = (if s.shiftSetVY = true then s.readV y else s.readV x) →
    (∃ t, exec (.op8XY6 x y) s = .next t ∧
      (x ≠ 15 → (t.readV x).toNat = v.toNat / 2) ∧ (t.readV 15).toNat = v.toNat % 2 ∧
      KeepsOtherRegs [x, 15] s t ∧ KeepsAllBut [.regs] s t) ∧
    (∃ t, exec (.op8XYE x y) s = .next t ∧
      (x ≠ 15 → (t.readV x).toNat = 2 * v.toNat % 256) ∧ (t.readV 15).toNat = v.toNat / 128 ∧
      KeepsOtherRegs [x, 15] s t ∧ KeepsAllBut [.regs] s t)

/-- CXNN, for every byte the environment may draw: that the byte is a free input is the spec's own decision D12. -/
def Obligations.RandomByteIsMasked : Prop :=
  ∀ (s : State) (x : RegIdx) (nn : Byte), ∃ t, exec (.opCXNN x nn) s = .next t ∧
    (∀ k, (t.readV x).getLsbD k = (s.env.rand.getLsbD k && nn.getLsbD k)) ∧
    KeepsOtherRegs [x] s t ∧ KeepsAllBut [.regs] s t

/-! ## The index register and memory -/

/-- R170 and the two other writes of `I` alone: FX1E keeps 16 bits (the wrap is the spec's own decision D4) and FX29 uses
all 8 bits of V[X] from 0x050 (the spec's own decision D13). -/
def Obligations.IndexRegisterLoads : Prop :=
  ∀ (s : State) (x : RegIdx) (nnn : Addr),
    (∃ t, exec (.opANNN nnn) s = .next t ∧ t.ireg.toNat = nnn.toNat ∧ KeepsAllBut [.index] s t) ∧
    (∃ t, exec (.opFX1E x) s = .next t ∧ t.ireg.toNat = (s.ireg.toNat + (s.readV x).toNat) % 65536 ∧
      KeepsAllBut [.index] s t) ∧
    (∃ t, exec (.opFX29 x) s = .next t ∧ t.ireg.toNat = 0x50 + 5 * (s.readV x).toNat ∧ KeepsAllBut [.index] s t)

/-- R175: FX33 stores the three decimal digits of V[X] at `I`, `I + 1`, `I + 2` and nothing else; `I` stays. -/
def Obligations.DecimalDigitsAreStored : Prop :=
  ∀ (s : State) (x : RegIdx), s.mem.wf = true → ∃ t, exec (.opFX33 x) s = .next t ∧
    (t.memRead (effAddr s.ireg 0)).toNat = (s.readV x).toNat / 100 ∧
    (t.memRead (effAddr s.ireg 1)).toNat = (s.readV x).toNat / 10 % 10 ∧
    (t.memRead (effAddr s.ireg 2)).toNat = (s.readV x).toNat % 10 ∧
    KeepsBytesOutside s.ireg 3 s t ∧
    KeepsAllBut [.mem] s t

/-- R176: FX55 stores V[0] to V[X] from `I` on, upward and around the top of memory, and nothing else; `I` moves past the
last byte exactly when the strap is 1. -/
def Obligations.RegistersAreStored : Prop :=
  ∀ (s : State) (x : RegIdx), s.mem.wf = true → ∃ t, exec (.opFX55 x) s = .next t ∧
    (∀ k : RegIdx, k ≤ x → t.memRead (effAddr s.ireg k.val) = s.readV k) ∧
    KeepsBytesOutside s.ireg (x.val + 1) s t ∧
    t.ireg.toNat = (if s.fx55IncrI = true then (s.ireg.toNat + x.val + 1) % 65536 else s.ireg.toNat) ∧
    KeepsAllBut [.mem, .index] s t

/-- FX65 loads V[0] to V[X] from `I` on; the registers above and memory stay; `I` moves as in FX55 (the spec's own decision
D18, 90_conflicts.md C2). -/
def Obligations.RegistersAreLoaded : Prop :=
  ∀ (s : State) (x : RegIdx), ∃ t, exec (.opFX65 x) s = .next t ∧
    (∀ k : RegIdx, k ≤ x → t.readV k = s.memRead (effAddr s.ireg k.val)) ∧
    (∀ k : RegIdx, x < k → t.readV k = s.readV k) ∧
    t.ireg.toNat = (if s.fx55IncrI = true then (s.ireg.toNat + x.val + 1) % 65536 else s.ireg.toNat) ∧
    KeepsAllBut [.regs, .index] s t

/-- R173: the bits 15:12 of `I` never reach memory: two states whose `I` agree modulo 4096 draw, store and load the
same. -/
def Obligations.HighBitsOfIndexDoNotReachMemory : Prop :=
  ∀ (s : State) (w : Word) (i : Instr), w.toNat % 4096 = s.ireg.toNat % 4096 →
    (∃ x y n, i = .opDXYN x y n) ∨ (∃ x, i = .opFX33 x ∨ i = .opFX55 x ∨ i = .opFX65 x) →
    ∃ t u, exec i s = .next t ∧ exec i (s.writeI w) = .next u ∧ u.v = t.v ∧ u.mem = t.mem ∧ u.fb = t.fb

/-! ## The display -/

/-- R194 with R191: 00E0 turns every pixel off and changes nothing else, VF included. -/
def Obligations.ClearTurnsEveryPixelOff : Prop :=
  ∀ s : State, ∃ t, exec .op00E0 s = .next t ∧ (∀ px py, pixel t.fb px py = false) ∧ KeepsAllBut [.fb] s t

/-- DXYN toggles exactly the pixels a set sprite bit falls on, clipped at the right and bottom edges; VF, for every X and Y,
is 1 exactly when such a pixel was on before. The start row modulo 32 and the coordinates read before VF is cleared are the
spec's own decisions D17 and D5. -/
def Obligations.DrawTogglesTheSpritePixels : Prop :=
  ∀ (s : State) (x y : RegIdx) (n : Fin 16), ∃ t, exec (.opDXYN x y n) s = .next t ∧
    (∀ px py, pixel t.fb px py = (pixel s.fb px py ^^ spriteBit s x y n px py)) ∧
    ((∃ px py, spriteBit s x y n px py = true ∧ pixel s.fb px py = true) → (t.readV 15).toNat = 1) ∧
    ((∀ px py, spriteBit s x y n px py = true → pixel s.fb px py = false) → (t.readV 15).toNat = 0) ∧
    KeepsOtherRegs [15] s t ∧ KeepsAllBut [.regs, .fb] s t

/-- The source's collision property (95_test_vectors.md E4), for any sprite: drawing it twice at the same place restores the screen, and from a blank screen the second
draw reports a collision exactly when the sprite has a set bit on the screen. -/
def Obligations.DrawingTwiceRestoresTheScreen : Prop :=
  ∀ (s : State) (x y : RegIdx) (n : Fin 16), x ≠ 15 → y ≠ 15 →
    ∃ t u, exec (.opDXYN x y n) s = .next t ∧ exec (.opDXYN x y n) t = .next u ∧ u.fb = s.fb ∧
      (s.fb = blankScreen →
        ((u.readV 15).toNat = 1 ↔ ∃ px py, spriteBit s x y n px py = true))

/-! ## Keypad and timers -/

/-- EX9E and EXA1 test the key named by V[X]; that the low four bits name it is the spec's own decision D10. -/
def Obligations.KeySkips : Prop :=
  ∀ (s : State) (x : RegIdx),
    (∃ t, exec (.opEX9E x) s = .next t ∧
      t.pc.toNat = (if s.env.keysDown.getLsbD ((s.readV x).toNat % 16) = true then (s.pc.toNat + 2) % 65536
        else s.pc.toNat) ∧ KeepsAllBut [.pc] s t) ∧
    (∃ t, exec (.opEXA1 x) s = .next t ∧
      t.pc.toNat = (if s.env.keysDown.getLsbD ((s.readV x).toNat % 16) = true then s.pc.toNat
        else (s.pc.toNat + 2) % 65536) ∧ KeepsAllBut [.pc] s t)

/-- R203: FX0A takes a newly pressed key into V[X]; with none it goes back to its own address. -/
def Obligations.KeyWait : Prop :=
  ∀ (s : State) (x : RegIdx), ∃ t, exec (.opFX0A x) s = .next t ∧
    (∀ k, s.env.keyPressed = some k →
      (t.readV x).toNat = k.val ∧ KeepsOtherRegs [x] s t ∧ KeepsAllBut [.regs] s t) ∧
    (s.env.keyPressed = none → t.pc.toNat = (s.pc.toNat + 65536 - 2) % 65536 ∧ KeepsAllBut [.pc] s t)

/-- R203, R247: an iteration that executes FX0A with no new key leaves everything but the two timers as it was, whatever the
keys held; only the record it has used is gone. -/
def Obligations.WaitingIterationMovesOnlyTheTimers : Prop :=
  ∀ (s : State) (x : RegIdx), s.willRun = true → s.nextEnv.keyPressed = none →
    decode s.fetchWord = .instruction (.opFX0A x) →
    ∃ t, step s = .next t ∧ KeepsAllBut [.dt, .st, .env, .inputs] s t

/-- R204, R205, R206: FX07 reads `DT`, FX15 and FX18 set `DT` and `ST`. -/
def Obligations.TimerAccess : Prop :=
  ∀ (s : State) (x : RegIdx),
    (∃ t, exec (.opFX07 x) s = .next t ∧ t.readV x = s.dt ∧ KeepsOtherRegs [x] s t ∧ KeepsAllBut [.regs] s t) ∧
    (∃ t, exec (.opFX15 x) s = .next t ∧ t.dt = s.readV x ∧ KeepsAllBut [.dt] s t) ∧
    (∃ t, exec (.opFX18 x) s = .next t ∧ t.st = s.readV x ∧ KeepsAllBut [.st] s t)

/-! ## Whole-machine rules over all instructions -/

/-- An instruction changes only the parts of the state its rule writes: memory by FX33 and FX55 alone (R62), the screen by
00E0 and DXYN, the stack by 2NNN and 00EE alone (R32), `I` (R26), the timers (R37), no strap (R40), no RUN (R39). -/
def Obligations.OnlyTheListedPartsChange : Prop :=
  ∀ (i : Instr) (s : State), ∃ t, exec i s = .next t ∧ KeepsAllBut (mayChange i) s t

/-- The registers an instruction may write are those of the table under R27; VF as a side effect by 8XY5, 8XY6, 8XY7, 8XYE
and DXYN alone (R23). -/
def Obligations.OnlyTheDestinationRegistersChange : Prop :=
  ∀ (i : Instr) (s : State), ∃ t, exec i s = .next t ∧ KeepsOtherRegs (destRegs i) s t

/-- Where every instruction leaves `PC`, the unrecognized opcode included (the table of 10_state.md R29). Which key the
conditions of EX9E and EXA1 test is the spec's own decision D10, the 0 of an empty stack D8 (log entry 9). -/
def Obligations.ProgramCounterAfterEachInstruction : Prop :=
  (∀ (i : Instr) (s : State), ∃ t, exec i s = .next t ∧ t.pc = pcAfter i s) ∧
  (∀ (op : Word) (s : State), ∃ t, execUnrecognized op s = .next t ∧ t.pc = s.pc)

/-- The keypad (60_exceptions.md R234 (b)) and the random byte (20_memory.md section 1) reach the machine only through EX9E, EXA1, FX0A and CXNN. -/
def Obligations.InputsReachOnlyTheirInstructions : Prop :=
  ∀ (i : Instr) (s : State) (e : Env), readsInputs i = false →
    ∃ t, exec i s = .next t ∧ exec i { s with env := e } = .next { t with env := e }

/-- The straps (00_scope.md section 4) are read by 8XY6, 8XYE, FX55 and FX65 alone; every other instruction does the same in all four
dialects. -/
def Obligations.StrapsReachOnlyFourInstructions : Prop :=
  ∀ (i : Instr) (s : State) (a b : Bool),
    (∀ x y, i ≠ .op8XY6 x y ∧ i ≠ .op8XYE x y) → (∀ x, i ≠ .opFX55 x ∧ i ≠ .opFX65 x) →
    ∃ t, exec i s = .next t ∧
      exec i { s with shiftSetVY := a, fx55IncrI := b } = .next { t with shiftSetVY := a, fx55IncrI := b }

/-! ## The iteration -/

/-- R90, R247: when the machine runs, its poll sees no quit request and the bytes at `PC` decode to an instruction, a step
is exec of that instruction on the polled and advanced state, and then one timer tick if it is due. -/
def Obligations.StepRunsTheDecodedInstruction : Prop :=
  ∀ (s t : State) (i : Instr), s.run = true → s.nextEnv.quit = false →
    decodeBytes (s.memRead s.pc) (s.memRead (s.pc + 1)) = .instruction i →
    exec i ({ s with
      env := s.nextEnv, inputs := s.inputs.tail, iter := s.iter + 1, pc := s.pc + 2 }) = .next t →
    step s = .next (if s.nextEnv.tickDue = true
      then { t with
        dt := if t.dt = 0 then 0 else t.dt - 1
        st := if t.st = 0 then 0 else t.st - 1 }
      else t)

/-- An iteration on an unrecognized word adds 2 to `PC`, emits that word as one diagnostic, and leaves every register, byte,
stack entry and pixel; only the tick, if it is due, moves the timers (45_unrecognized.md R220). The diagnostic's code and
information word are the spec's own decision D19 (log entry 9), and the list `diags` is the model's (log entry 7). -/
def Obligations.UnrecognizedWordIsADiagnosedNoOp : Prop :=
  ∀ (s : State) (op : Word), s.willRun = true → decode s.fetchWord = .unrecognized op →
    op = s.fetchWord ∧
    ∃ t, step s = .next t ∧ t.pc.toNat = (s.pc.toNat + 2) % 65536 ∧
      t.diags = s.diags ++ [⟨.unrecognizedOpcode, op⟩] ∧
      KeepsAllBut [.pc, .dt, .st, .diags, .env, .inputs] s t ∧
      (s.nextEnv.tickDue = false → t.dt = s.dt ∧ t.st = s.st)

/-- A quit request seen at the poll clears RUN and does nothing else, even if a tick is due; with RUN = 0 nothing happens any
more, for any number of iterations (the spec's own decision D20, a direct reading of the source's "terminates the loop
before the next fetch"). -/
def Obligations.QuitStopsTheLoopForGood : Prop :=
  ∀ s : State,
    (s.run = true → s.nextEnv.quit = true →
      ∃ t, step s = .next t ∧ t.run = false ∧ KeepsAllBut [.run, .env, .inputs] s t) ∧
    (s.run = false → ∀ n, iterations n s = .next s)

/-- R230, R90: no run of any length, from any state, with any inputs, ends in a fault or a refusal. -/
def Obligations.EveryRunCompletes : Prop :=
  ∀ (n : Nat) (s : State), ∃ t, iterations n s = .next t

/-- Every step keeps the invariant: memory in the model's canonical form, RUN in step with the last quit request (the
model's `env` field: log entry 1), in the log only diagnostics of the anomaly table (log entry 7). -/
def Obligations.StepKeepsTheInvariant : Prop :=
  ∀ s t : State, s.Inv → step s = .next t → t.Inv

/-- The invariant holds right after reset (the model's reset values of `env` and `diags`: log entries 1 and 7). -/
def Obligations.ResetMeetsTheInvariant : Prop := State.reset.Inv

/-- No step changes a strap ("Immutable after construction", 10_state.md section 8), and RUN changes only from 1 to 0 and
only on a quit request (the spec's own decision D20). -/
def Obligations.StrapsAndRunAreBeyondThePrograms : Prop :=
  ∀ s : State, ∃ t, step s = .next t ∧ t.shiftSetVY = s.shiftSetVY ∧ t.fx55IncrI = s.fx55IncrI ∧
    t.run = (s.run && !s.nextEnv.quit)

/-- A step emits exactly the diagnostics of the anomaly table of 60_exceptions.md section 1, hence at most one; a stopping or
stopped iteration emits none. The codes and information words are the spec's own decision D19. -/
def Obligations.DiagnosticsAreExactlyTheAnomalies : Prop :=
  ∀ s : State, s.anomaly.length ≤ 1 ∧
    ∃ t, step s = .next t ∧ t.diags = s.diags ++ (if s.willRun = true then s.anomaly else [])

/-- The numeric codes and information words of the anomaly table of 60_exceptions.md section 1, as the step that meets the
anomaly emits them: 1 with the fetched word, 2 with the return address that was dropped, 3 with 0. They are the spec's own
decisions D19 and D8 (log entry 9), and the list `diags` is the model's (log entry 7). -/
def Obligations.NumericCodesOfTheDiagnostics : Prop :=
  ∀ s : State, s.willRun = true → ∃ t, step s = .next t ∧
    (∀ op, decode s.fetchWord = .unrecognized op →
      t.diags.map Diag.event = s.diags.map Diag.event ++ [(1, op)]) ∧
    (∀ nnn, decode s.fetchWord = .instruction (.op2NNN nnn) → s.sp.val = 16 →
      t.diags.map Diag.event = s.diags.map Diag.event ++ [(2, s.pc + 2)]) ∧
    (decode s.fetchWord = .instruction .op00EE → s.sp.val = 0 →
      t.diags.map Diag.event = s.diags.map Diag.event ++ [(3, 0)])

/-- The tick is the spec's own decision D7 (90_conflicts.md C4): an iteration that runs and does not execute FX15 (FX18) moves `DT` (`ST`) by exactly its tick, clamped at
0; one that executes FX15 ticks the value just set. -/
def Obligations.TimersMoveOnlyByTheTick : Prop :=
  ∀ s : State, s.willRun = true → ∃ t, step s = .next t ∧
    ((∀ x, decode s.fetchWord ≠ .instruction (.opFX15 x)) → t.dt.toNat = s.dt.toNat - s.ticks) ∧
    ((∀ x, decode s.fetchWord ≠ .instruction (.opFX18 x)) → t.st.toNat = s.st.toNat - s.ticks) ∧
    (∀ x, decode s.fetchWord = .instruction (.opFX15 x) → t.dt.toNat = (s.readV x).toNat - s.ticks) ∧
    (∀ x, decode s.fetchWord = .instruction (.opFX18 x) → t.st.toNat = (s.readV x).toNat - s.ticks)

/-- R243: over any run without FX15, `DT` falls by the number of ticks, clamped at 0, whatever the number of instructions
executed and whatever they are. -/
def Obligations.DelayTimerCountsTicksNotInstructions : Prop :=
  ∀ (s t : State) (k : Nat), DelayRun s k t → t.dt.toNat = s.dt.toNat - k

/-- No program can observe `ST` ("a program cannot observe it", 44_keypad_timers.md section 3) or the diagnostics
(60_exceptions.md section 1): two states that differ only there stay so, for any number of iterations. -/
def Obligations.SoundTimerAndDiagnosticsAreUnobservable : Prop :=
  ∀ (n : Nat) (s u : State), SameProgramView s u →
    ∃ t w, iterations n s = .next t ∧ iterations n u = .next w ∧ SameProgramView t w

/-! ## Reset and launch -/

/-- The memory image of every launch: the ROM from 0x200, the font from 0x050, zero elsewhere. The zero fill and the font's
place are the spec's own decisions D14 and D13. -/
def Obligations.LaunchBuildsTheMemoryImage : Prop :=
  ∀ (c : Config) (s : State), launch c = some s → ∀ a : Word,
    (∀ k, k < c.rom.length → cellOf a = 0x200 + k → s.memRead a = c.rom.getD k 0) ∧
    (∀ k, k < 80 → cellOf a = 0x050 + k → s.memRead a = c.fontData.getD k 0) ∧
    ((cellOf a < 0x050 ∨ (0x0A0 ≤ cellOf a ∧ cellOf a < 0x200) ∨ 0x200 + c.rom.length ≤ cellOf a) →
      s.memRead a = 0)

/-- A launch exists exactly for 80 font bytes and a ROM of at most 3584 bytes; its registers, stack depth, timers and RUN
have the reset values, its straps and framebuffer those of the configuration; no diagnostic is recorded; and it meets the
invariant. The zeros are the spec's own decision D14, the ROM limit D15 (log entry 8). -/
def Obligations.LaunchLeavesTheResetValues : Prop :=
  (∀ c : Config, (∃ s, launch c = some s) ↔ (c.fontData.length = 80 ∧ c.rom.length ≤ 3584)) ∧
  ∀ (c : Config) (s : State), launch c = some s →
    (∀ r, s.readV r = 0) ∧ s.ireg = 0 ∧ s.pc = 0x0200 ∧ s.sp = 0 ∧ s.dt = 0 ∧ s.st = 0 ∧ s.run = true ∧
    s.shiftSetVY = c.shiftSetVY ∧ s.fx55IncrI = c.fx55IncrI ∧ s.fb = c.fb0 ∧ s.diags = [] ∧ s.Inv

/-- `State.reset` is the launch of the standard configuration (its empty ROM and straps are the model's choice: log
entries 2 and 5). -/
def Obligations.ResetIsTheStandardLaunch : Prop := launch Config.standard = some State.reset

/-- The word of any instruction, placed by `withFetchWord`, is what the next step fetches and decodes, and that step runs
(the model's own way to place a program: log entries 1 and 2). -/
def Obligations.PlacedWordIsFetchedNext : Prop :=
  ∀ (s : State) (i : Instr), s.mem.wf = true →
    decodeTableWord 16 (encode i).toNat = some i ∧
    (s.withFetchWord 16 (encode i).toNat).willRun = true ∧
    decode (s.withFetchWord 16 (encode i).toNat).fetchWord = .instruction i ∧
    KeepsAllBut [.mem, .run, .inputs] s (s.withFetchWord 16 (encode i).toNat) ∧
    KeepsBytesOutside s.pc 2 s (s.withFetchWord 16 (encode i).toNat)
end

