-- ==== Sys2Proof/Laws/Decode.lean ====
section
/-! SUPPORT. The fields of a word put together from its digits, and a word put together from its fields. -/

namespace Sys2Proof

theorem toNat_append_add {m n : Nat} (a : BitVec m) (b : BitVec n) :
    (a ++ b).toNat = a.toNat * 2 ^ n + b.toNat := by
  rw [BitVec.toNat_append, ← Nat.shiftLeft_add_eq_or_of_lt b.isLt, Nat.shiftLeft_eq]

@[simp] theorem nibbleOfFin_toNat (r : Fin 16) : (nibbleOfFin r).toNat = r.val := by
  simp only [nibbleOfFin, BitVec.toNat_ofNat]
  omega

theorem opcodeOf_toNat (b1 b2 : Byte) : (opcodeOf b1 b2).toNat = b1.toNat * 256 + b2.toNat := toNat_append_add b1 b2

theorem wordA_toNat (c : Nibble) (nnn : Addr) : (wordA c nnn).toNat = c.toNat * 4096 + nnn.toNat :=
  toNat_append_add c nnn

theorem wordI_toNat (c : Nibble) (x : RegIdx) (nn : Byte) :
    (wordI c x nn).toNat = c.toNat * 4096 + x.val * 256 + nn.toNat := by
  unfold wordI
  rw [toNat_append_add, toNat_append_add, nibbleOfFin_toNat]
  omega

theorem wordR_toNat (c : Nibble) (x y n : Fin 16) :
    (wordR c x y n).toNat = c.toNat * 4096 + x.val * 256 + y.val * 16 + n.val := by
  unfold wordR
  rw [toNat_append_add, toNat_append_add, toNat_append_add]
  simp only [nibbleOfFin_toNat]
  omega

/-! ## The fields as numbers -/

theorem fieldC_toNat (op : Word) : (fieldC op).toNat = op.toNat / 4096 := by
  have := op.isLt
  simp only [fieldC, BitVec.extractLsb'_toNat, Nat.shiftRight_eq_div_pow]
  omega

theorem fieldX_val (op : Word) : (fieldX op).val = op.toNat / 256 % 16 := by
  simp only [fieldX, regOfNibble, BitVec.extractLsb'_toNat, Nat.shiftRight_eq_div_pow]

theorem fieldY_val (op : Word) : (fieldY op).val = op.toNat / 16 % 16 := by
  simp only [fieldY, regOfNibble, BitVec.extractLsb'_toNat, Nat.shiftRight_eq_div_pow]

theorem fieldN_val (op : Word) : (fieldN op).val = op.toNat % 16 := by
  simp only [fieldN, regOfNibble, BitVec.extractLsb'_toNat, Nat.shiftRight_eq_div_pow]
  omega

theorem fieldNN_toNat (op : Word) : (fieldNN op).toNat = op.toNat % 256 := by
  simp only [fieldNN, BitVec.extractLsb'_toNat, Nat.shiftRight_eq_div_pow, Nat.pow_zero, Nat.div_one]

theorem fieldNNN_toNat (op : Word) : (fieldNNN op).toNat = op.toNat % 4096 := by
  simp only [fieldNNN, BitVec.extractLsb'_toNat, Nat.shiftRight_eq_div_pow, Nat.pow_zero, Nat.div_one]

/-! ## The fields of a word of each format -/

@[simp] theorem fieldC_wordA (c : Nibble) (nnn : Addr) : fieldC (wordA c nnn) = c := by
  have := nnn.isLt
  apply BitVec.eq_of_toNat_eq
  rw [fieldC_toNat, wordA_toNat]
  omega

@[simp] theorem fieldNNN_wordA (c : Nibble) (nnn : Addr) : fieldNNN (wordA c nnn) = nnn := by
  have := nnn.isLt
  apply BitVec.eq_of_toNat_eq
  rw [fieldNNN_toNat, wordA_toNat]
  omega

@[simp] theorem fieldC_wordI (c : Nibble) (x : RegIdx) (nn : Byte) : fieldC (wordI c x nn) = c := by
  have := nn.isLt
  apply BitVec.eq_of_toNat_eq
  rw [fieldC_toNat, wordI_toNat]
  omega

@[simp] theorem fieldX_wordI (c : Nibble) (x : RegIdx) (nn : Byte) : fieldX (wordI c x nn) = x := by
  have := nn.isLt
  apply Fin.ext
  rw [fieldX_val, wordI_toNat]
  omega

@[simp] theorem fieldNN_wordI (c : Nibble) (x : RegIdx) (nn : Byte) : fieldNN (wordI c x nn) = nn := by
  have := nn.isLt
  apply BitVec.eq_of_toNat_eq
  rw [fieldNN_toNat, wordI_toNat]
  omega

@[simp] theorem fieldC_wordR (c : Nibble) (x y n : Fin 16) : fieldC (wordR c x y n) = c := by
  apply BitVec.eq_of_toNat_eq
  rw [fieldC_toNat, wordR_toNat]
  omega

@[simp] theorem fieldX_wordR (c : Nibble) (x y n : Fin 16) : fieldX (wordR c x y n) = x := by
  apply Fin.ext
  rw [fieldX_val, wordR_toNat]
  omega

@[simp] theorem fieldY_wordR (c : Nibble) (x y n : Fin 16) : fieldY (wordR c x y n) = y := by
  apply Fin.ext
  rw [fieldY_val, wordR_toNat]
  omega

@[simp] theorem fieldN_wordR (c : Nibble) (x y n : Fin 16) : fieldN (wordR c x y n) = n := by
  apply Fin.ext
  rw [fieldN_val, wordR_toNat]
  omega

/-! ## A word from its fields -/

theorem eq_wordA {op : Word} {c : Nibble} (h : (fieldC op).toNat = c.toNat) : wordA c (fieldNNN op) = op := by
  apply BitVec.eq_of_toNat_eq
  rw [fieldC_toNat] at h
  rw [wordA_toNat, fieldNNN_toNat]
  omega

theorem eq_wordI {op : Word} {c : Nibble} {nn : Byte} (h : (fieldC op).toNat = c.toNat)
    (hn : (fieldNN op).toNat = nn.toNat) : wordI c (fieldX op) nn = op := by
  apply BitVec.eq_of_toNat_eq
  rw [fieldC_toNat] at h
  rw [fieldNN_toNat] at hn
  rw [wordI_toNat, fieldX_val]
  omega

theorem eq_wordR {op : Word} {c : Nibble} {n : Fin 16} (h : (fieldC op).toNat = c.toNat)
    (hn : (fieldN op).val = n.val) : wordR c (fieldX op) (fieldY op) n = op := by
  apply BitVec.eq_of_toNat_eq
  rw [fieldC_toNat] at h
  rw [fieldN_val] at hn
  rw [wordR_toNat, fieldX_val, fieldY_val]
  omega

/-! ## Two bytes -/

theorem opcodeOf_wordBytes (op : Word) : opcodeOf (wordBytes op).1 (wordBytes op).2 = op := by
  have := op.isLt
  apply BitVec.eq_of_toNat_eq
  rw [opcodeOf_toNat]
  simp only [wordBytes, BitVec.extractLsb'_toNat, Nat.shiftRight_eq_div_pow]
  omega

theorem tableWord_toNat (op : Word) : tableWord 16 op.toNat = op := by
  have := op.isLt
  apply BitVec.eq_of_toNat_eq
  simp only [tableWord, BitVec.toNat_ofNat]
  omega

/-- Outside class 0 the two whole words play no part. -/
theorem decode_of_class {op : Word} (h : fieldC op ≠ 0) : decode op = decodeClass op := by
  have h1 : op ≠ 0x00E0 := fun e => h (e ▸ by decide)
  have h2 : op ≠ 0x00EE := fun e => h (e ▸ by decide)
  simp only [decode, h1, h2, if_false]

/-- Every word is its four digits. -/
theorem eq_wordR_fields (op : Word) : wordR (fieldC op) (fieldX op) (fieldY op) (fieldN op) = op :=
  eq_wordR rfl rfl

/-- What the decoder rejects, it rejects under its own word. -/
theorem decode_unrecognized {op w : Word} (h : decode op = .unrecognized w) : w = op := by
  unfold decode decodeClass decodeClass8 decodeClassE decodeClassF at h
  repeat' split at h
  all_goals first
    | exact Decoded.noConfusion h
    | exact (Decoded.unrecognized.inj h).symm

end Sys2Proof
end

