-- ==== Sys2Proof/Laws/State.lean ====
section
/-! SUPPORT. One lemma per field per update, and what each update leaves of a register read and a byte read. -/

namespace Sys2Proof.Machine

/-! `writeV` -/

@[simp] theorem writeV_v (s : State) (r : RegIdx) (b : Byte) : (s.writeV r b).v = s.v.set r.val b := rfl
@[simp] theorem writeV_ireg (s : State) (r : RegIdx) (b : Byte) : (s.writeV r b).ireg = s.ireg := rfl
@[simp] theorem writeV_pc (s : State) (r : RegIdx) (b : Byte) : (s.writeV r b).pc = s.pc := rfl
@[simp] theorem writeV_sp (s : State) (r : RegIdx) (b : Byte) : (s.writeV r b).sp = s.sp := rfl
@[simp] theorem writeV_stk (s : State) (r : RegIdx) (b : Byte) : (s.writeV r b).stk = s.stk := rfl
@[simp] theorem writeV_mem (s : State) (r : RegIdx) (b : Byte) : (s.writeV r b).mem = s.mem := rfl
@[simp] theorem writeV_dt (s : State) (r : RegIdx) (b : Byte) : (s.writeV r b).dt = s.dt := rfl
@[simp] theorem writeV_st (s : State) (r : RegIdx) (b : Byte) : (s.writeV r b).st = s.st := rfl
@[simp] theorem writeV_run (s : State) (r : RegIdx) (b : Byte) : (s.writeV r b).run = s.run := rfl
@[simp] theorem writeV_shiftSetVY (s : State) (r : RegIdx) (b : Byte) : (s.writeV r b).shiftSetVY = s.shiftSetVY := rfl
@[simp] theorem writeV_fx55IncrI (s : State) (r : RegIdx) (b : Byte) : (s.writeV r b).fx55IncrI = s.fx55IncrI := rfl
@[simp] theorem writeV_fb (s : State) (r : RegIdx) (b : Byte) : (s.writeV r b).fb = s.fb := rfl
@[simp] theorem writeV_env (s : State) (r : RegIdx) (b : Byte) : (s.writeV r b).env = s.env := rfl
@[simp] theorem writeV_inputs (s : State) (r : RegIdx) (b : Byte) : (s.writeV r b).inputs = s.inputs := rfl
@[simp] theorem writeV_iter (s : State) (r : RegIdx) (b : Byte) : (s.writeV r b).iter = s.iter := rfl
@[simp] theorem writeV_diags (s : State) (r : RegIdx) (b : Byte) : (s.writeV r b).diags = s.diags := rfl
@[simp] theorem writeV_memRead (s : State) (r : RegIdx) (b : Byte) (m : Word) : (s.writeV r b).memRead m = s.memRead m := rfl

/-! `writeI` -/

@[simp] theorem writeI_v (s : State) (w : Word) : (s.writeI w).v = s.v := rfl
@[simp] theorem writeI_ireg (s : State) (w : Word) : (s.writeI w).ireg = w := rfl
@[simp] theorem writeI_pc (s : State) (w : Word) : (s.writeI w).pc = s.pc := rfl
@[simp] theorem writeI_sp (s : State) (w : Word) : (s.writeI w).sp = s.sp := rfl
@[simp] theorem writeI_stk (s : State) (w : Word) : (s.writeI w).stk = s.stk := rfl
@[simp] theorem writeI_mem (s : State) (w : Word) : (s.writeI w).mem = s.mem := rfl
@[simp] theorem writeI_dt (s : State) (w : Word) : (s.writeI w).dt = s.dt := rfl
@[simp] theorem writeI_st (s : State) (w : Word) : (s.writeI w).st = s.st := rfl
@[simp] theorem writeI_run (s : State) (w : Word) : (s.writeI w).run = s.run := rfl
@[simp] theorem writeI_shiftSetVY (s : State) (w : Word) : (s.writeI w).shiftSetVY = s.shiftSetVY := rfl
@[simp] theorem writeI_fx55IncrI (s : State) (w : Word) : (s.writeI w).fx55IncrI = s.fx55IncrI := rfl
@[simp] theorem writeI_fb (s : State) (w : Word) : (s.writeI w).fb = s.fb := rfl
@[simp] theorem writeI_env (s : State) (w : Word) : (s.writeI w).env = s.env := rfl
@[simp] theorem writeI_inputs (s : State) (w : Word) : (s.writeI w).inputs = s.inputs := rfl
@[simp] theorem writeI_iter (s : State) (w : Word) : (s.writeI w).iter = s.iter := rfl
@[simp] theorem writeI_diags (s : State) (w : Word) : (s.writeI w).diags = s.diags := rfl
@[simp] theorem writeI_readV (s : State) (w : Word) (k : RegIdx) : (s.writeI w).readV k = s.readV k := rfl
@[simp] theorem writeI_memRead (s : State) (w : Word) (m : Word) : (s.writeI w).memRead m = s.memRead m := rfl

/-! `writePC` -/

@[simp] theorem writePC_v (s : State) (w : Word) : (s.writePC w).v = s.v := rfl
@[simp] theorem writePC_ireg (s : State) (w : Word) : (s.writePC w).ireg = s.ireg := rfl
@[simp] theorem writePC_pc (s : State) (w : Word) : (s.writePC w).pc = w := rfl
@[simp] theorem writePC_sp (s : State) (w : Word) : (s.writePC w).sp = s.sp := rfl
@[simp] theorem writePC_stk (s : State) (w : Word) : (s.writePC w).stk = s.stk := rfl
@[simp] theorem writePC_mem (s : State) (w : Word) : (s.writePC w).mem = s.mem := rfl
@[simp] theorem writePC_dt (s : State) (w : Word) : (s.writePC w).dt = s.dt := rfl
@[simp] theorem writePC_st (s : State) (w : Word) : (s.writePC w).st = s.st := rfl
@[simp] theorem writePC_run (s : State) (w : Word) : (s.writePC w).run = s.run := rfl
@[simp] theorem writePC_shiftSetVY (s : State) (w : Word) : (s.writePC w).shiftSetVY = s.shiftSetVY := rfl
@[simp] theorem writePC_fx55IncrI (s : State) (w : Word) : (s.writePC w).fx55IncrI = s.fx55IncrI := rfl
@[simp] theorem writePC_fb (s : State) (w : Word) : (s.writePC w).fb = s.fb := rfl
@[simp] theorem writePC_env (s : State) (w : Word) : (s.writePC w).env = s.env := rfl
@[simp] theorem writePC_inputs (s : State) (w : Word) : (s.writePC w).inputs = s.inputs := rfl
@[simp] theorem writePC_iter (s : State) (w : Word) : (s.writePC w).iter = s.iter := rfl
@[simp] theorem writePC_diags (s : State) (w : Word) : (s.writePC w).diags = s.diags := rfl
@[simp] theorem writePC_readV (s : State) (w : Word) (k : RegIdx) : (s.writePC w).readV k = s.readV k := rfl
@[simp] theorem writePC_memRead (s : State) (w : Word) (m : Word) : (s.writePC w).memRead m = s.memRead m := rfl

/-! `writeDT` -/

@[simp] theorem writeDT_v (s : State) (b : Byte) : (s.writeDT b).v = s.v := rfl
@[simp] theorem writeDT_ireg (s : State) (b : Byte) : (s.writeDT b).ireg = s.ireg := rfl
@[simp] theorem writeDT_pc (s : State) (b : Byte) : (s.writeDT b).pc = s.pc := rfl
@[simp] theorem writeDT_sp (s : State) (b : Byte) : (s.writeDT b).sp = s.sp := rfl
@[simp] theorem writeDT_stk (s : State) (b : Byte) : (s.writeDT b).stk = s.stk := rfl
@[simp] theorem writeDT_mem (s : State) (b : Byte) : (s.writeDT b).mem = s.mem := rfl
@[simp] theorem writeDT_dt (s : State) (b : Byte) : (s.writeDT b).dt = b := rfl
@[simp] theorem writeDT_st (s : State) (b : Byte) : (s.writeDT b).st = s.st := rfl
@[simp] theorem writeDT_run (s : State) (b : Byte) : (s.writeDT b).run = s.run := rfl
@[simp] theorem writeDT_shiftSetVY (s : State) (b : Byte) : (s.writeDT b).shiftSetVY = s.shiftSetVY := rfl
@[simp] theorem writeDT_fx55IncrI (s : State) (b : Byte) : (s.writeDT b).fx55IncrI = s.fx55IncrI := rfl
@[simp] theorem writeDT_fb (s : State) (b : Byte) : (s.writeDT b).fb = s.fb := rfl
@[simp] theorem writeDT_env (s : State) (b : Byte) : (s.writeDT b).env = s.env := rfl
@[simp] theorem writeDT_inputs (s : State) (b : Byte) : (s.writeDT b).inputs = s.inputs := rfl
@[simp] theorem writeDT_iter (s : State) (b : Byte) : (s.writeDT b).iter = s.iter := rfl
@[simp] theorem writeDT_diags (s : State) (b : Byte) : (s.writeDT b).diags = s.diags := rfl
@[simp] theorem writeDT_readV (s : State) (b : Byte) (k : RegIdx) : (s.writeDT b).readV k = s.readV k := rfl
@[simp] theorem writeDT_memRead (s : State) (b : Byte) (m : Word) : (s.writeDT b).memRead m = s.memRead m := rfl

/-! `writeST` -/

@[simp] theorem writeST_v (s : State) (b : Byte) : (s.writeST b).v = s.v := rfl
@[simp] theorem writeST_ireg (s : State) (b : Byte) : (s.writeST b).ireg = s.ireg := rfl
@[simp] theorem writeST_pc (s : State) (b : Byte) : (s.writeST b).pc = s.pc := rfl
@[simp] theorem writeST_sp (s : State) (b : Byte) : (s.writeST b).sp = s.sp := rfl
@[simp] theorem writeST_stk (s : State) (b : Byte) : (s.writeST b).stk = s.stk := rfl
@[simp] theorem writeST_mem (s : State) (b : Byte) : (s.writeST b).mem = s.mem := rfl
@[simp] theorem writeST_dt (s : State) (b : Byte) : (s.writeST b).dt = s.dt := rfl
@[simp] theorem writeST_st (s : State) (b : Byte) : (s.writeST b).st = b := rfl
@[simp] theorem writeST_run (s : State) (b : Byte) : (s.writeST b).run = s.run := rfl
@[simp] theorem writeST_shiftSetVY (s : State) (b : Byte) : (s.writeST b).shiftSetVY = s.shiftSetVY := rfl
@[simp] theorem writeST_fx55IncrI (s : State) (b : Byte) : (s.writeST b).fx55IncrI = s.fx55IncrI := rfl
@[simp] theorem writeST_fb (s : State) (b : Byte) : (s.writeST b).fb = s.fb := rfl
@[simp] theorem writeST_env (s : State) (b : Byte) : (s.writeST b).env = s.env := rfl
@[simp] theorem writeST_inputs (s : State) (b : Byte) : (s.writeST b).inputs = s.inputs := rfl
@[simp] theorem writeST_iter (s : State) (b : Byte) : (s.writeST b).iter = s.iter := rfl
@[simp] theorem writeST_diags (s : State) (b : Byte) : (s.writeST b).diags = s.diags := rfl
@[simp] theorem writeST_readV (s : State) (b : Byte) (k : RegIdx) : (s.writeST b).readV k = s.readV k := rfl
@[simp] theorem writeST_memRead (s : State) (b : Byte) (m : Word) : (s.writeST b).memRead m = s.memRead m := rfl

/-! `setStack` -/

@[simp] theorem setStack_v (s : State) (p : Fin 17) (q : Vector Word 16) : (s.setStack p q).v = s.v := rfl
@[simp] theorem setStack_ireg (s : State) (p : Fin 17) (q : Vector Word 16) : (s.setStack p q).ireg = s.ireg := rfl
@[simp] theorem setStack_pc (s : State) (p : Fin 17) (q : Vector Word 16) : (s.setStack p q).pc = s.pc := rfl
@[simp] theorem setStack_sp (s : State) (p : Fin 17) (q : Vector Word 16) : (s.setStack p q).sp = p := rfl
@[simp] theorem setStack_stk (s : State) (p : Fin 17) (q : Vector Word 16) : (s.setStack p q).stk = q := rfl
@[simp] theorem setStack_mem (s : State) (p : Fin 17) (q : Vector Word 16) : (s.setStack p q).mem = s.mem := rfl
@[simp] theorem setStack_dt (s : State) (p : Fin 17) (q : Vector Word 16) : (s.setStack p q).dt = s.dt := rfl
@[simp] theorem setStack_st (s : State) (p : Fin 17) (q : Vector Word 16) : (s.setStack p q).st = s.st := rfl
@[simp] theorem setStack_run (s : State) (p : Fin 17) (q : Vector Word 16) : (s.setStack p q).run = s.run := rfl
@[simp] theorem setStack_shiftSetVY (s : State) (p : Fin 17) (q : Vector Word 16) : (s.setStack p q).shiftSetVY = s.shiftSetVY := rfl
@[simp] theorem setStack_fx55IncrI (s : State) (p : Fin 17) (q : Vector Word 16) : (s.setStack p q).fx55IncrI = s.fx55IncrI := rfl
@[simp] theorem setStack_fb (s : State) (p : Fin 17) (q : Vector Word 16) : (s.setStack p q).fb = s.fb := rfl
@[simp] theorem setStack_env (s : State) (p : Fin 17) (q : Vector Word 16) : (s.setStack p q).env = s.env := rfl
@[simp] theorem setStack_inputs (s : State) (p : Fin 17) (q : Vector Word 16) : (s.setStack p q).inputs = s.inputs := rfl
@[simp] theorem setStack_iter (s : State) (p : Fin 17) (q : Vector Word 16) : (s.setStack p q).iter = s.iter := rfl
@[simp] theorem setStack_diags (s : State) (p : Fin 17) (q : Vector Word 16) : (s.setStack p q).diags = s.diags := rfl
@[simp] theorem setStack_readV (s : State) (p : Fin 17) (q : Vector Word 16) (k : RegIdx) : (s.setStack p q).readV k = s.readV k := rfl
@[simp] theorem setStack_memRead (s : State) (p : Fin 17) (q : Vector Word 16) (m : Word) : (s.setStack p q).memRead m = s.memRead m := rfl

/-! `setFB` -/

@[simp] theorem setFB_v (s : State) (f : Framebuffer) : (s.setFB f).v = s.v := rfl
@[simp] theorem setFB_ireg (s : State) (f : Framebuffer) : (s.setFB f).ireg = s.ireg := rfl
@[simp] theorem setFB_pc (s : State) (f : Framebuffer) : (s.setFB f).pc = s.pc := rfl
@[simp] theorem setFB_sp (s : State) (f : Framebuffer) : (s.setFB f).sp = s.sp := rfl
@[simp] theorem setFB_stk (s : State) (f : Framebuffer) : (s.setFB f).stk = s.stk := rfl
@[simp] theorem setFB_mem (s : State) (f : Framebuffer) : (s.setFB f).mem = s.mem := rfl
@[simp] theorem setFB_dt (s : State) (f : Framebuffer) : (s.setFB f).dt = s.dt := rfl
@[simp] theorem setFB_st (s : State) (f : Framebuffer) : (s.setFB f).st = s.st := rfl
@[simp] theorem setFB_run (s : State) (f : Framebuffer) : (s.setFB f).run = s.run := rfl
@[simp] theorem setFB_shiftSetVY (s : State) (f : Framebuffer) : (s.setFB f).shiftSetVY = s.shiftSetVY := rfl
@[simp] theorem setFB_fx55IncrI (s : State) (f : Framebuffer) : (s.setFB f).fx55IncrI = s.fx55IncrI := rfl
@[simp] theorem setFB_fb (s : State) (f : Framebuffer) : (s.setFB f).fb = f := rfl
@[simp] theorem setFB_env (s : State) (f : Framebuffer) : (s.setFB f).env = s.env := rfl
@[simp] theorem setFB_inputs (s : State) (f : Framebuffer) : (s.setFB f).inputs = s.inputs := rfl
@[simp] theorem setFB_iter (s : State) (f : Framebuffer) : (s.setFB f).iter = s.iter := rfl
@[simp] theorem setFB_diags (s : State) (f : Framebuffer) : (s.setFB f).diags = s.diags := rfl
@[simp] theorem setFB_readV (s : State) (f : Framebuffer) (k : RegIdx) : (s.setFB f).readV k = s.readV k := rfl
@[simp] theorem setFB_memRead (s : State) (f : Framebuffer) (m : Word) : (s.setFB f).memRead m = s.memRead m := rfl

/-! `stop` -/

@[simp] theorem stop_v (s : State) : s.stop.v = s.v := rfl
@[simp] theorem stop_ireg (s : State) : s.stop.ireg = s.ireg := rfl
@[simp] theorem stop_pc (s : State) : s.stop.pc = s.pc := rfl
@[simp] theorem stop_sp (s : State) : s.stop.sp = s.sp := rfl
@[simp] theorem stop_stk (s : State) : s.stop.stk = s.stk := rfl
@[simp] theorem stop_mem (s : State) : s.stop.mem = s.mem := rfl
@[simp] theorem stop_dt (s : State) : s.stop.dt = s.dt := rfl
@[simp] theorem stop_st (s : State) : s.stop.st = s.st := rfl
@[simp] theorem stop_run (s : State) : s.stop.run = false := rfl
@[simp] theorem stop_shiftSetVY (s : State) : s.stop.shiftSetVY = s.shiftSetVY := rfl
@[simp] theorem stop_fx55IncrI (s : State) : s.stop.fx55IncrI = s.fx55IncrI := rfl
@[simp] theorem stop_fb (s : State) : s.stop.fb = s.fb := rfl
@[simp] theorem stop_env (s : State) : s.stop.env = s.env := rfl
@[simp] theorem stop_inputs (s : State) : s.stop.inputs = s.inputs := rfl
@[simp] theorem stop_iter (s : State) : s.stop.iter = s.iter := rfl
@[simp] theorem stop_diags (s : State) : s.stop.diags = s.diags := rfl
@[simp] theorem stop_readV (s : State) (k : RegIdx) : s.stop.readV k = s.readV k := rfl
@[simp] theorem stop_memRead (s : State) (m : Word) : s.stop.memRead m = s.memRead m := rfl

/-! `diag`, and the numbers of the codes -/

@[simp] theorem number_unrecognizedOpcode : DiagCode.unrecognizedOpcode.number = 1 := rfl
@[simp] theorem number_stackOverflow : DiagCode.stackOverflow.number = 2 := rfl
@[simp] theorem number_stackUnderflow : DiagCode.stackUnderflow.number = 3 := rfl
@[simp] theorem event_mk (c : DiagCode) (w : Word) : Diag.event ⟨c, w⟩ = (c.number, w) := rfl
/-- No two anomalies have one number. -/
@[simp] theorem number_inj (c d : DiagCode) : c.number = d.number ↔ c = d := by cases c <;> cases d <;> decide

@[simp] theorem diag_v (s : State) (c : DiagCode) (w : Word) : (s.diag c w).v = s.v := rfl
@[simp] theorem diag_ireg (s : State) (c : DiagCode) (w : Word) : (s.diag c w).ireg = s.ireg := rfl
@[simp] theorem diag_pc (s : State) (c : DiagCode) (w : Word) : (s.diag c w).pc = s.pc := rfl
@[simp] theorem diag_sp (s : State) (c : DiagCode) (w : Word) : (s.diag c w).sp = s.sp := rfl
@[simp] theorem diag_stk (s : State) (c : DiagCode) (w : Word) : (s.diag c w).stk = s.stk := rfl
@[simp] theorem diag_mem (s : State) (c : DiagCode) (w : Word) : (s.diag c w).mem = s.mem := rfl
@[simp] theorem diag_dt (s : State) (c : DiagCode) (w : Word) : (s.diag c w).dt = s.dt := rfl
@[simp] theorem diag_st (s : State) (c : DiagCode) (w : Word) : (s.diag c w).st = s.st := rfl
@[simp] theorem diag_run (s : State) (c : DiagCode) (w : Word) : (s.diag c w).run = s.run := rfl
@[simp] theorem diag_shiftSetVY (s : State) (c : DiagCode) (w : Word) : (s.diag c w).shiftSetVY = s.shiftSetVY := rfl
@[simp] theorem diag_fx55IncrI (s : State) (c : DiagCode) (w : Word) : (s.diag c w).fx55IncrI = s.fx55IncrI := rfl
@[simp] theorem diag_fb (s : State) (c : DiagCode) (w : Word) : (s.diag c w).fb = s.fb := rfl
@[simp] theorem diag_env (s : State) (c : DiagCode) (w : Word) : (s.diag c w).env = s.env := rfl
@[simp] theorem diag_inputs (s : State) (c : DiagCode) (w : Word) : (s.diag c w).inputs = s.inputs := rfl
@[simp] theorem diag_iter (s : State) (c : DiagCode) (w : Word) : (s.diag c w).iter = s.iter := rfl
@[simp] theorem diag_diags (s : State) (c : DiagCode) (w : Word) : (s.diag c w).diags = s.diags ++ [⟨c, w⟩] := rfl
@[simp] theorem diag_readV (s : State) (c : DiagCode) (w : Word) (k : RegIdx) : (s.diag c w).readV k = s.readV k := rfl
@[simp] theorem diag_memRead (s : State) (c : DiagCode) (w : Word) (m : Word) : (s.diag c w).memRead m = s.memRead m := rfl

/-! `memWrite` -/

@[simp] theorem memWrite_v (s : State) (a : Word) (b : Byte) : (s.memWrite a b).v = s.v := rfl
@[simp] theorem memWrite_ireg (s : State) (a : Word) (b : Byte) : (s.memWrite a b).ireg = s.ireg := rfl
@[simp] theorem memWrite_pc (s : State) (a : Word) (b : Byte) : (s.memWrite a b).pc = s.pc := rfl
@[simp] theorem memWrite_sp (s : State) (a : Word) (b : Byte) : (s.memWrite a b).sp = s.sp := rfl
@[simp] theorem memWrite_stk (s : State) (a : Word) (b : Byte) : (s.memWrite a b).stk = s.stk := rfl
@[simp] theorem memWrite_mem (s : State) (a : Word) (b : Byte) : (s.memWrite a b).mem = s.mem.write (cellOf a) b := rfl
@[simp] theorem memWrite_dt (s : State) (a : Word) (b : Byte) : (s.memWrite a b).dt = s.dt := rfl
@[simp] theorem memWrite_st (s : State) (a : Word) (b : Byte) : (s.memWrite a b).st = s.st := rfl
@[simp] theorem memWrite_run (s : State) (a : Word) (b : Byte) : (s.memWrite a b).run = s.run := rfl
@[simp] theorem memWrite_shiftSetVY (s : State) (a : Word) (b : Byte) : (s.memWrite a b).shiftSetVY = s.shiftSetVY := rfl
@[simp] theorem memWrite_fx55IncrI (s : State) (a : Word) (b : Byte) : (s.memWrite a b).fx55IncrI = s.fx55IncrI := rfl
@[simp] theorem memWrite_fb (s : State) (a : Word) (b : Byte) : (s.memWrite a b).fb = s.fb := rfl
@[simp] theorem memWrite_env (s : State) (a : Word) (b : Byte) : (s.memWrite a b).env = s.env := rfl
@[simp] theorem memWrite_inputs (s : State) (a : Word) (b : Byte) : (s.memWrite a b).inputs = s.inputs := rfl
@[simp] theorem memWrite_iter (s : State) (a : Word) (b : Byte) : (s.memWrite a b).iter = s.iter := rfl
@[simp] theorem memWrite_diags (s : State) (a : Word) (b : Byte) : (s.memWrite a b).diags = s.diags := rfl
@[simp] theorem memWrite_readV (s : State) (a : Word) (b : Byte) (k : RegIdx) : (s.memWrite a b).readV k = s.readV k := rfl

/-! `poll` -/

@[simp] theorem poll_v (s : State) : s.poll.v = s.v := rfl
@[simp] theorem poll_ireg (s : State) : s.poll.ireg = s.ireg := rfl
@[simp] theorem poll_pc (s : State) : s.poll.pc = s.pc := rfl
@[simp] theorem poll_sp (s : State) : s.poll.sp = s.sp := rfl
@[simp] theorem poll_stk (s : State) : s.poll.stk = s.stk := rfl
@[simp] theorem poll_mem (s : State) : s.poll.mem = s.mem := rfl
@[simp] theorem poll_dt (s : State) : s.poll.dt = s.dt := rfl
@[simp] theorem poll_st (s : State) : s.poll.st = s.st := rfl
@[simp] theorem poll_run (s : State) : s.poll.run = s.run := rfl
@[simp] theorem poll_shiftSetVY (s : State) : s.poll.shiftSetVY = s.shiftSetVY := rfl
@[simp] theorem poll_fx55IncrI (s : State) : s.poll.fx55IncrI = s.fx55IncrI := rfl
@[simp] theorem poll_fb (s : State) : s.poll.fb = s.fb := rfl
@[simp] theorem poll_env (s : State) : s.poll.env = s.nextEnv := rfl
@[simp] theorem poll_inputs (s : State) : s.poll.inputs = s.inputs.tail := rfl
@[simp] theorem poll_iter (s : State) : s.poll.iter = s.iter + 1 := rfl
@[simp] theorem poll_diags (s : State) : s.poll.diags = s.diags := rfl
@[simp] theorem poll_readV (s : State) (k : RegIdx) : s.poll.readV k = s.readV k := rfl
@[simp] theorem poll_memRead (s : State) (m : Word) : s.poll.memRead m = s.memRead m := rfl

/-! What a write leaves of the register it writes and of the others. -/

theorem readV_writeV (s : State) (r k : RegIdx) (b : Byte) :
    (s.writeV r b).readV k = if k = r then b else s.readV k := by
  by_cases h : k = r
  · simp [State.readV, h]
  · have : r.val ≠ k.val := fun e => h (Fin.ext e.symm)
    simp [State.readV, h, this]

@[simp] theorem readV_writeV_same (s : State) (r : RegIdx) (b : Byte) : (s.writeV r b).readV r = b := by
  simp [readV_writeV]

theorem readV_writeV_other (s : State) {r k : RegIdx} (b : Byte) (h : k ≠ r) : (s.writeV r b).readV k = s.readV k := by
  simp [readV_writeV, h]

end Sys2Proof.Machine
end

