-- ==== Sys2Proof/Laws/Memory.lean ====
section
/-! SUPPORT. Read after write, and the canonical form kept by every memory operation (20_memory.md R60, R61). -/

namespace Sys2Proof.Machine

theorem memSize_eq : memSize = 4096 := rfl

theorem cellOf_lt (a : Word) : cellOf a < 4096 := Nat.mod_lt _ (by decide)

/-! ## The list of cells -/

theorem read_entry_append (m : Memory) (a c : Nat) (v : Byte) (h : c ≠ a) :
    Memory.read (Memory.entry a v ++ m) c = Memory.read m c := by
  unfold Memory.entry
  split
  · rfl
  · simp [Memory.read, Ne.symm h]

/-- A write leaves every other cell alone, in canonical form or not. -/
theorem read_write_other (m : Memory) {a c : Nat} (v : Byte) (h : c ≠ a) :
    Memory.read (Memory.write m a v) c = Memory.read m c := by
  induction m with
  | nil => simpa [Memory.write, Memory.read] using read_entry_append [] a c v h
  | cons cell rest ih =>
    obtain ⟨b, w⟩ := cell
    unfold Memory.write
    split
    · exact read_entry_append _ a c v h
    · split
      · subst_vars
        rw [read_entry_append _ _ _ _ h]
        simp [Memory.read, Ne.symm h]
      · simp [Memory.read, ih]

theorem risingFrom_cons {lo b : Nat} {w : Byte} {rest : Memory} :
    Memory.risingFrom lo ((b, w) :: rest) = true ↔
      lo ≤ b ∧ b < memSize ∧ w ≠ Memory.unlisted b ∧ Memory.risingFrom (b + 1) rest = true := by
  simp [Memory.risingFrom, and_assoc]

theorem risingFrom_mono {lo lo' : Nat} (m : Memory) (h : lo' ≤ lo) (hm : Memory.risingFrom lo m = true) :
    Memory.risingFrom lo' m = true := by
  cases m with
  | nil => rfl
  | cons cell rest =>
    rw [risingFrom_cons] at *
    exact ⟨Nat.le_trans h hm.1, hm.2⟩

/-- A cell below the first listed one reads as the reset image. -/
theorem read_below {lo a : Nat} (m : Memory) (hm : Memory.risingFrom lo m = true) (h : a < lo) :
    Memory.read m a = Memory.unlisted a := by
  induction m generalizing lo with
  | nil => rfl
  | cons cell rest ih =>
    obtain ⟨b, w⟩ := cell
    rw [risingFrom_cons] at hm
    have hb : b ≠ a := by omega
    simp [Memory.read, hb, ih hm.2.2.2 (by omega)]

theorem read_entry_same {lo a : Nat} (v : Byte) (m : Memory) (hm : Memory.risingFrom lo m = true) (h : a < lo) :
    Memory.read (Memory.entry a v ++ m) a = v := by
  unfold Memory.entry
  split
  · rw [List.nil_append, read_below m hm h]
    exact Eq.symm ‹_›
  · simp [Memory.read]

theorem read_write_same_from {lo a : Nat} (m : Memory) (v : Byte) (hm : Memory.risingFrom lo m = true) :
    Memory.read (Memory.write m a v) a = v := by
  induction m generalizing lo with
  | nil => simpa [Memory.write] using read_entry_same v [] (lo := a + 1) rfl (by omega)
  | cons cell rest ih =>
    obtain ⟨b, w⟩ := cell
    have hc := risingFrom_cons.mp hm
    unfold Memory.write
    split
    · exact read_entry_same v _ (lo := b) (risingFrom_cons.mpr ⟨Nat.le_refl b, hc.2⟩) ‹_›
    · split
      · subst_vars
        exact read_entry_same v rest hc.2.2.2 (by omega)
      · have hb : b ≠ a := fun e => ‹¬a = b› e.symm
        simp [Memory.read, hb, ih hc.2.2.2]

/-- In canonical form a cell just written reads as the byte written. -/
theorem read_write_same (m : Memory) (a : Nat) (v : Byte) (hm : m.wf = true) :
    Memory.read (Memory.write m a v) a = v :=
  read_write_same_from m v hm

theorem risingFrom_entry {lo a : Nat} (v : Byte) (m : Memory) (hlo : lo ≤ a) (ha : a < memSize)
    (hm : Memory.risingFrom (a + 1) m = true) : Memory.risingFrom lo (Memory.entry a v ++ m) = true := by
  unfold Memory.entry
  split
  · exact risingFrom_mono m (by omega) hm
  · exact risingFrom_cons.mpr ⟨hlo, ha, ‹_›, hm⟩

theorem risingFrom_write {lo a : Nat} (m : Memory) (v : Byte) (hlo : lo ≤ a) (ha : a < memSize)
    (hm : Memory.risingFrom lo m = true) : Memory.risingFrom lo (Memory.write m a v) = true := by
  induction m generalizing lo with
  | nil => simpa [Memory.write] using risingFrom_entry v [] hlo ha rfl
  | cons cell rest ih =>
    obtain ⟨b, w⟩ := cell
    have hc := risingFrom_cons.mp hm
    unfold Memory.write
    split
    · exact risingFrom_entry v _ hlo ha (risingFrom_cons.mpr ⟨by omega, hc.2⟩)
    · split
      · subst_vars
        exact risingFrom_entry v rest hlo ha hc.2.2.2
      · exact risingFrom_cons.mpr ⟨hc.1, hc.2.1, hc.2.2.1, ih (by omega) hc.2.2.2⟩

/-- A write to a cell that exists keeps the canonical form. -/
theorem wf_write (m : Memory) {a : Nat} (v : Byte) (ha : a < memSize) (hm : m.wf = true) :
    (m.write a v).wf = true :=
  risingFrom_write m v (Nat.zero_le a) ha hm

/-- A load of bytes that all fit keeps the canonical form. -/
theorem wf_load (vs : List Byte) (m : Memory) {a : Nat} (ha : a + vs.length ≤ memSize) (hm : m.wf = true) :
    (m.load a vs).wf = true := by
  induction vs generalizing m a with
  | nil => exact hm
  | cons v vs ih =>
    simp only [List.length_cons] at ha
    exact ih (m.write a v) (by omega) (wf_write m v (by omega) hm)

/-- A load leaves every cell outside its range alone. -/
theorem read_load_outside (vs : List Byte) (m : Memory) {a c : Nat} (h : c < a ∨ a + vs.length ≤ c) :
    Memory.read (m.load a vs) c = m.read c := by
  induction vs generalizing m a with
  | nil => rfl
  | cons v vs ih =>
    simp only [List.length_cons] at h
    rw [Memory.load, ih (m.write a v) (by omega), read_write_other m v (by omega)]

/-- In canonical form a load puts byte `k` at cell `a + k`. -/
theorem read_load_inside (vs : List Byte) (m : Memory) {a k : Nat} (hk : k < vs.length)
    (ha : a + vs.length ≤ memSize) (hm : m.wf = true) : Memory.read (m.load a vs) (a + k) = vs.getD k 0 := by
  induction vs generalizing m a k with
  | nil => simp at hk
  | cons v vs ih =>
    simp only [List.length_cons] at hk ha
    rw [Memory.load]
    cases k with
    | zero =>
      rw [read_load_outside vs _ (by omega), Nat.add_zero, read_write_same m a v hm]
      rfl
    | succ k =>
      rw [show a + (k + 1) = a + 1 + k by omega,
        ih (m.write a v) (by omega) (by omega) (wf_write m v (by omega) hm)]
      rfl

/-! ## The port -/

theorem memRead_memWrite (s : State) (a c : Word) (v : Byte) (hm : s.mem.wf = true) :
    (s.memWrite a v).memRead c = if cellOf a = cellOf c then v else s.memRead c := by
  unfold State.memRead
  rw [memWrite_mem]
  split
  · rename_i h
    rw [← h, read_write_same _ _ _ hm]
  · rename_i h
    exact read_write_other _ _ (Ne.symm h)

theorem memRead_memWrite_other (s : State) {a c : Word} (v : Byte) (h : cellOf c ≠ cellOf a) :
    (s.memWrite a v).memRead c = s.memRead c := read_write_other _ _ h

theorem wf_memWrite (s : State) (a : Word) (v : Byte) (hm : s.mem.wf = true) : (s.memWrite a v).mem.wf = true :=
  wf_write _ v (cellOf_lt a) hm

/-! ## Effective addresses (42_index_memory.md R173) -/

theorem cellOf_effAddr (base : Word) (k : Nat) : cellOf (effAddr base k) = (base.toNat + k) % 4096 := by
  simp only [effAddr, cellOf, memSize, BitVec.toNat_add, BitVec.toNat_ofNat]
  omega

end Sys2Proof.Machine
end

