-- ==== Sys2Proof/Laws/Ops.lean ====
section
/-! SUPPORT. One lemma for each shared operation that says all it does, in terms of the updates of Laws/State.lean. -/

namespace Sys2Proof.Machine

/-! ## The program counter -/

theorem add_two_toNat (w : Word) : (w + 2).toNat = (w.toNat + 2) % 65536 := by
  simp [BitVec.toNat_add]

theorem sub_two_toNat (w : Word) : (w - 2).toNat = (w.toNat + 65536 - 2) % 65536 := by
  have := w.isLt
  rw [BitVec.toNat_sub, show (2 : Word).toNat = 2 by rfl]
  omega

theorem zextAddr_toNat (nnn : Addr) : (zextAddr nnn).toNat = nnn.toNat := by
  have := nnn.isLt
  simp only [zextAddr, BitVec.toNat_setWidth]
  omega

theorem zextByte_toNat (b : Byte) : (zextByte b).toNat = b.toNat := by
  have := b.isLt
  simp only [zextByte, BitVec.toNat_setWidth]
  omega

theorem advance_eq (s : State) : s.advance = s.writePC (s.pc + 2) := rfl

/-- A skip writes `PC`, whether or not it is taken. -/
theorem skipIf_eq (s : State) (c : Bool) : s.skipIf c = s.writePC (if c then s.pc + 2 else s.pc) := by
  cases c <;> rfl

/-! ## The call stack -/

theorem push_of_room (s : State) (w : Word) {k : Fin 16} (h : s.sp.val = k.val) :
    s.push w = s.setStack ⟨k.val + 1, by omega⟩ (s.stk.set k.val w) := by
  unfold State.push
  simp only [h, k.isLt, dite_true]

theorem push_of_full (s : State) (w : Word) (h : s.sp.val = 16) : s.push w = s.diag .stackOverflow w := by
  simp [State.push, h]

theorem pop_of_entry (s : State) {k : Fin 16} (h : s.sp.val = k.val + 1) :
    s.popValue = s.stk[k.val] ∧ s.popState = s.setStack ⟨k.val, by omega⟩ s.stk := by
  simp [State.popValue, State.popState, h]

theorem pop_of_empty (s : State) (h : s.sp.val = 0) :
    s.popValue = 0 ∧ s.popState = s.diag .stackUnderflow 0 := by
  simp [State.popValue, State.popState, h]

/-- The stack either is empty or has a top entry. -/
theorem sp_cases (s : State) : s.sp.val = 0 ∨ ∃ k : Fin 16, s.sp.val = k.val + 1 := by
  rcases Nat.eq_zero_or_pos s.sp.val with h | h
  · exact .inl h
  · exact .inr ⟨⟨s.sp.val - 1, by omega⟩, by simp only; omega⟩

/-- The stack either is full or has room. -/
theorem sp_room (s : State) : s.sp.val = 16 ∨ ∃ k : Fin 16, s.sp.val = k.val := by
  rcases Nat.lt_or_ge s.sp.val 16 with h | h
  · exact .inr ⟨⟨s.sp.val, h⟩, rfl⟩
  · exact .inl (by omega)

/-! ## Flags -/

/-- A result with its flag: VF holds the flag, whatever X is, and V[X] the result unless X is 0xF. -/
theorem readV_writeWithFlag (s : State) (x k : RegIdx) (r f : Byte) :
    (s.writeWithFlag x r f).readV k = if k = 15 then f else if k = x then r else s.readV k := by
  simp [State.writeWithFlag, readV_writeV]

theorem flagByte_toNat (c : Bool) : (flagByte c).toNat = if c then 1 else 0 := by cases c <;> rfl

theorem flagGreater_toNat (a b : Byte) : (flagGreater a b).toNat = if b.toNat < a.toNat then 1 else 0 := by
  simp [flagGreater, flagByte_toNat]

theorem flagShr_toNat (v : Byte) : (flagShr v).toNat = v.toNat % 2 := by
  revert v; decide

theorem flagShl_toNat (v : Byte) : (flagShl v).toNat = v.toNat / 128 := by
  revert v; decide

/-! ## The timers -/

theorem countDown_eq (b : Byte) : countDown b = if b = 0 then 0 else b - 1 := by
  revert b; decide

theorem countDown_toNat (b : Byte) : (countDown b).toNat = b.toNat - 1 := by
  revert b; decide

theorem tickIfDue_eq (s : State) :
    s.tickIfDue = (s.writeDT (if s.env.tickDue then countDown s.dt else s.dt)).writeST
      (if s.env.tickDue then countDown s.st else s.st) := by
  unfold State.tickIfDue State.timerTick
  split <;> rfl

/-! ## The optional increment of I -/

theorem incrI_eq (s : State) (base : Word) (x : RegIdx) :
    s.incrI base x = s.writeI (if s.fx55IncrI then effAddr base (x.val + 1) else s.ireg) := by
  unfold State.incrI
  split <;> rfl

theorem effAddr_toNat (base : Word) (k : Nat) : (effAddr base k).toNat = (base.toNat + k) % 65536 := by
  simp only [effAddr, BitVec.toNat_add, BitVec.toNat_ofNat]
  omega

/-- The addresses of fewer than 4096 consecutive bytes reach different cells. -/
theorem cellOf_effAddr_inj {base : Word} {j k : Nat} (hj : j < 4096) (hk : k < 4096)
    (h : cellOf (effAddr base j) = cellOf (effAddr base k)) : j = k := by
  rw [cellOf_effAddr, cellOf_effAddr] at h
  omega

/-! ## Register blocks -/

theorem mem_regsUpTo {x k : RegIdx} : k ∈ regsUpTo x ↔ k ≤ x := by simp [regsUpTo]

/-- FX55's stores change memory only. -/
theorem storeRegs_eq (base : Word) (ks : List RegIdx) (s : State) :
    State.storeRegs base ks s = { s with mem := (State.storeRegs base ks s).mem } := by
  induction ks generalizing s with
  | nil => rfl
  | cons k ks ih =>
    rw [State.storeRegs, ih]
    rfl

theorem storeRegs_wf (base : Word) (ks : List RegIdx) (s : State) (h : s.mem.wf = true) :
    (State.storeRegs base ks s).mem.wf = true := by
  induction ks generalizing s with
  | nil => exact h
  | cons k ks ih => exact ih _ (wf_memWrite s _ _ h)

theorem storeRegs_outside (base : Word) (ks : List RegIdx) (s : State) {a : Word}
    (h : ∀ k ∈ ks, cellOf a ≠ cellOf (effAddr base k.val)) :
    (State.storeRegs base ks s).memRead a = s.memRead a := by
  induction ks generalizing s with
  | nil => rfl
  | cons k ks ih =>
    rw [State.storeRegs, ih _ (fun j hj => h j (List.mem_cons_of_mem k hj)),
      memRead_memWrite_other s _ (h k List.mem_cons_self)]

theorem storeRegs_inside (base : Word) (ks : List RegIdx) (s : State) (hm : s.mem.wf = true) {j : RegIdx}
    (hj : j ∈ ks) : (State.storeRegs base ks s).memRead (effAddr base j.val) = s.readV j := by
  induction ks generalizing s with
  | nil => simp at hj
  | cons k ks ih =>
    rw [State.storeRegs]
    by_cases hk : j ∈ ks
    · exact ih _ (wf_memWrite s _ _ hm) hk
    · have e : j = k := by simpa [hk] using hj
      subst e
      rw [storeRegs_outside]
      · simp [memRead_memWrite s _ _ _ hm]
      · intro i hi hc
        have := cellOf_effAddr_inj (by omega) (by omega) hc
        exact hk (Fin.ext this ▸ hi)

/-- FX65's loads change the registers only. -/
theorem loadRegs_eq (base : Word) (ks : List RegIdx) (s : State) :
    State.loadRegs base ks s = { s with v := (State.loadRegs base ks s).v } := by
  induction ks generalizing s with
  | nil => rfl
  | cons k ks ih =>
    rw [State.loadRegs, ih]
    rfl

theorem loadRegs_readV (base : Word) (ks : List RegIdx) (s : State) (j : RegIdx) :
    (State.loadRegs base ks s).readV j = if j ∈ ks then s.memRead (effAddr base j.val) else s.readV j := by
  induction ks generalizing s with
  | nil => simp [State.loadRegs]
  | cons k ks ih =>
    rw [State.loadRegs, ih]
    by_cases hk : j ∈ ks
    · simp [hk]
    · by_cases e : j = k
      · simp [e]
      · simp [hk, e, readV_writeV]

end Sys2Proof.Machine
end

