-- ==== Sys2Proof/Laws/Draw.lean ====
section
/-! SUPPORT. What a draw does, pixel by pixel (43_display.md R191, R192, R195, R196). -/

namespace Sys2Proof.Machine

theorem pixel_blankScreen (x : Fin 64) (y : Fin 32) : pixel blankScreen x y = false := by
  simp [pixel, blankScreen]

theorem pixel_dispFlip (fb : Framebuffer) (x px : Fin 64) (y py : Fin 32) :
    pixel (dispFlip fb x y) px py = (pixel fb px py ^^ (decide (px = x) && decide (py = y))) := by
  unfold pixel dispFlip
  by_cases hy : py = y
  · subst hy
    by_cases hx : px = x
    · subst hx
      simp [pixel]
    · have : x.val ≠ px.val := fun e => hx (Fin.ext e.symm)
      simp [hx, this]
  · have : y.val ≠ py.val := fun e => hy (Fin.ext e.symm)
    simp [hy, this]

theorem dispFlipOff_eq (fb : Framebuffer) (x : Fin 64) (y : Fin 32) : dispFlipOff fb x y = pixel fb x y := by
  simp [dispFlipOff, pixel_dispFlip]

/-- Two framebuffers with the same pixels are the same. -/
theorem framebuffer_ext {f g : Framebuffer} (h : ∀ x y, pixel f x y = pixel g x y) : f = g := by
  apply Vector.ext
  intro y hy
  apply Vector.ext
  intro x hx
  exact h ⟨x, hx⟩ ⟨y, hy⟩

/-- From `d` to `d'` exactly the pixels of `hit` are toggled, and a collision is added when one of them was on. -/
def Draws (hit : Fin 64 → Fin 32 → Bool) (d d' : Draw) : Prop :=
  (∀ px py, pixel d'.fb px py = (pixel d.fb px py ^^ hit px py)) ∧
  (d'.off = true ↔ d.off = true ∨ ∃ px py, hit px py = true ∧ pixel d.fb px py = true)

theorem draws_nothing (d : Draw) : Draws (fun _ _ => false) d d := by simp [Draws]

theorem draws_flip (d : Draw) (x : Fin 64) (y : Fin 32) :
    Draws (fun px py => decide (px = x) && decide (py = y)) d (d.flip x y) := by
  refine ⟨fun px py => pixel_dispFlip d.fb x px y py, ?_⟩
  simp [Draw.flip, dispFlipOff_eq]

/-- Two draws that toggle different pixels make one. -/
theorem draws_trans {h₁ h₂ : Fin 64 → Fin 32 → Bool} {d₁ d₂ d₃ : Draw} (a : Draws h₁ d₁ d₂) (b : Draws h₂ d₂ d₃)
    (disjoint : ∀ px py, h₁ px py = true → h₂ px py = false) : Draws (fun px py => h₁ px py || h₂ px py) d₁ d₃ := by
  have keep : ∀ px py, h₂ px py = true → pixel d₂.fb px py = pixel d₁.fb px py := by
    intro px py h
    have : h₁ px py = false := by
      by_contra hc
      simp [disjoint px py (by simpa using hc)] at h
    rw [a.1, this, Bool.xor_false]
  refine ⟨fun px py => ?_, ?_⟩
  · rw [b.1, a.1]
    cases e : h₁ px py
    · simp [e]
    · simp [e, disjoint px py e]
  · rw [b.2, a.2]
    constructor
    · rintro ((h | ⟨px, py, h, hp⟩) | ⟨px, py, h, hp⟩)
      · exact .inl h
      · exact .inr ⟨px, py, by simp [h], hp⟩
      · exact .inr ⟨px, py, by simp [h], keep px py h ▸ hp⟩
    · rintro (h | ⟨px, py, h, hp⟩)
      · exact .inl (.inl h)
      · cases e : h₁ px py
        · have h2 : h₂ px py = true := by simpa [e] using h
          exact .inr ⟨px, py, h2, (keep px py h2).symm ▸ hp⟩
        · exact .inl (.inr ⟨px, py, e, hp⟩)

theorem draws_congr {h₁ h₂ : Fin 64 → Fin 32 → Bool} {d d' : Draw} (a : Draws h₁ d d')
    (e : ∀ px py, h₁ px py = h₂ px py) : Draws h₂ d d' := by
  have : h₁ = h₂ := funext fun px => funext fun py => e px py
  exact this ▸ a

/-- The pixels of row `y` under the sprite bits of the list. -/
def rowHit (byte : Byte) (x0 : Nat) (y : Fin 32) (bits : List (Fin 8)) (px : Fin 64) (py : Fin 32) : Bool :=
  decide (py = y) && bits.any fun bit => decide (px.val = x0 + bit.val) && byte.getLsbD (7 - bit.val)

/-- The bit loop, over bits in ascending order, toggles the pixels under its set bits. -/
theorem draws_bits (byte : Byte) (x0 : Nat) (y : Fin 32) (bits : List (Fin 8)) (asc : bits.Pairwise (· < ·))
    (d : Draw) : Draws (rowHit byte x0 y bits) d (Draw.bits byte x0 y bits d) := by
  induction bits generalizing d with
  | nil => exact draws_congr (draws_nothing d) (by simp [rowHit])
  | cons bit rest ih =>
    rw [List.pairwise_cons] at asc
    unfold Draw.bits
    split
    · rename_i h
      cases e : byte.getLsbD (7 - bit.val)
      · refine draws_congr (ih asc.2 d) fun px py => ?_
        simp [rowHit, e]
      · refine draws_congr (draws_trans (draws_flip d ⟨x0 + bit.val, h⟩ y) (ih asc.2 _) ?_) fun px py => ?_
        · intro px py hp
          simp only [Bool.and_eq_true, decide_eq_true_eq] at hp
          simp only [rowHit, Bool.and_eq_false_iff, List.any_eq_false, Bool.and_eq_true, decide_eq_true_eq, not_and]
          refine .inr fun b hb hx => ?_
          have := asc.1 b hb
          rw [hp.1] at hx
          simp only at hx
          omega
        · simp only [rowHit, List.any_cons, e, Bool.and_true, Fin.ext_iff]
          cases decide (py.val = y.val) <;> simp
    · rename_i h
      refine draws_congr (draws_nothing d) fun px py => ?_
      symm
      simp only [rowHit, Bool.and_eq_false_iff, List.any_eq_false, Bool.and_eq_true, decide_eq_true_eq, not_and]
      refine .inr fun b hb hx => ?_
      have : bit ≤ b := by
        rcases List.mem_cons.mp hb with rfl | hb
        · exact le_refl _
        · exact le_of_lt (asc.1 b hb)
      omega

/-- The pixels under the sprite rows of the list. -/
def spriteHit (sprite : Nat → Byte) (x0 y0 : Nat) (rows : List Nat) (px : Fin 64) (py : Fin 32) : Bool :=
  rows.any fun row => decide (py.val = y0 + row) && (List.finRange 8).any fun bit =>
    decide (px.val = x0 + bit.val) && (sprite row).getLsbD (7 - bit.val)

/-- The row loop, over rows in ascending order, toggles the pixels under the set bits of the sprite. -/
theorem draws_rows (sprite : Nat → Byte) (x0 y0 : Nat) (rows : List Nat) (asc : rows.Pairwise (· < ·)) (d : Draw) :
    Draws (spriteHit sprite x0 y0 rows) d (Draw.rows sprite x0 y0 rows d) := by
  induction rows generalizing d with
  | nil => exact draws_congr (draws_nothing d) (by simp [spriteHit])
  | cons row rest ih =>
    rw [List.pairwise_cons] at asc
    unfold Draw.rows
    split
    · rename_i h
      refine draws_congr (draws_trans
        (draws_bits (sprite row) x0 ⟨y0 + row, h⟩ (List.finRange 8) (by decide) d) (ih asc.2 _) ?_) fun px py => ?_
      · intro px py hp
        simp only [rowHit, Bool.and_eq_true, decide_eq_true_eq] at hp
        simp only [spriteHit, List.any_eq_false, Bool.and_eq_true, decide_eq_true_eq, not_and]
        intro r hr hy
        have := asc.1 r hr
        rw [hp.1] at hy
        simp only at hy
        omega
      · simp [spriteHit, rowHit, Fin.ext_iff]
    · rename_i h
      refine draws_congr (draws_nothing d) fun px py => ?_
      symm
      simp only [spriteHit, List.any_eq_false, Bool.and_eq_true, decide_eq_true_eq, not_and]
      intro r hr hy
      have : row ≤ r := by
        rcases List.mem_cons.mp hr with rfl | hr
        · exact le_refl _
        · exact le_of_lt (asc.1 r hr)
      omega

end Sys2Proof.Machine
end

