-- ==== Sys2Proof/Laws/Frames.lean ====
section
/-! SUPPORT. What each update leaves unchanged, in the terms of Safety.lean, and how frames compose. -/

namespace Sys2Proof.Machine

theorem Part.unchanged_refl (p : Part) (s : State) : p.unchanged s s := by
  cases p <;> simp [Part.unchanged]

theorem Part.unchanged_trans {p : Part} {s t u : State} (a : p.unchanged s t) (b : p.unchanged t u) :
    p.unchanged s u := by
  cases p <;> simp_all [Part.unchanged]

theorem keeps_refl (ps : List Part) (s : State) : KeepsAllBut ps s s := fun p _ => p.unchanged_refl s

theorem KeepsAllBut.trans {ps qs : List Part} {s t u : State} (a : KeepsAllBut ps s t) (b : KeepsAllBut qs t u) :
    KeepsAllBut (ps ++ qs) s u := fun p h =>
  Part.unchanged_trans (a p fun hp => h (List.mem_append_left qs hp)) (b p fun hq => h (List.mem_append_right ps hq))

theorem KeepsAllBut.mono {ps qs : List Part} {s t : State} (a : KeepsAllBut ps s t) (h : ps ⊆ qs) :
    KeepsAllBut qs s t := fun p hp => a p fun hq => hp (h hq)

theorem keeps_writeV (s : State) (r : RegIdx) (b : Byte) : KeepsAllBut [.regs] s (s.writeV r b) := by
  intro p hp; cases p <;> simp_all [Part.unchanged]

theorem keeps_writeI (s : State) (w : Word) : KeepsAllBut [.index] s (s.writeI w) := by
  intro p hp; cases p <;> simp_all [Part.unchanged]

theorem keeps_writePC (s : State) (w : Word) : KeepsAllBut [.pc] s (s.writePC w) := by
  intro p hp; cases p <;> simp_all [Part.unchanged]

theorem keeps_writeDT (s : State) (b : Byte) : KeepsAllBut [.dt] s (s.writeDT b) := by
  intro p hp; cases p <;> simp_all [Part.unchanged]

theorem keeps_writeST (s : State) (b : Byte) : KeepsAllBut [.st] s (s.writeST b) := by
  intro p hp; cases p <;> simp_all [Part.unchanged]

theorem keeps_setStack (s : State) (p : Fin 17) (q : Vector Word 16) : KeepsAllBut [.stack] s (s.setStack p q) := by
  intro p hp; cases p <;> simp_all [Part.unchanged]

theorem keeps_setFB (s : State) (f : Framebuffer) : KeepsAllBut [.fb] s (s.setFB f) := by
  intro p hp; cases p <;> simp_all [Part.unchanged]

theorem keeps_stop (s : State) : KeepsAllBut [.run] s s.stop := by
  intro p hp; cases p <;> simp_all [Part.unchanged]

theorem keeps_diag (s : State) (c : DiagCode) (w : Word) : KeepsAllBut [.diags] s (s.diag c w) := by
  intro p hp; cases p <;> simp_all [Part.unchanged]

theorem keeps_memWrite (s : State) (a : Word) (b : Byte) : KeepsAllBut [.mem] s (s.memWrite a b) := by
  intro p hp; cases p <;> simp_all [Part.unchanged, State.readV]

theorem keeps_poll (s : State) : KeepsAllBut [.env, .inputs] s s.poll := by
  intro p hp; cases p <;> simp_all [Part.unchanged]

theorem keeps_tickIfDue (s : State) : KeepsAllBut [.dt, .st] s s.tickIfDue := by
  rw [tickIfDue_eq]
  exact (keeps_writeDT _ _).trans (keeps_writeST _ _)

theorem keeps_push (s : State) (w : Word) : KeepsAllBut [.stack, .diags] s (s.push w) := by
  rcases sp_room s with h | ⟨k, h⟩
  · rw [push_of_full s w h]
    exact (keeps_diag s _ _).mono (by simp)
  · rw [push_of_room s w h]
    exact (keeps_setStack s _ _).mono (by simp)

theorem keeps_popState (s : State) : KeepsAllBut [.stack, .diags] s s.popState := by
  rcases sp_cases s with h | ⟨k, h⟩
  · rw [(pop_of_empty s h).2]
    exact (keeps_diag s _ _).mono (by simp)
  · rw [(pop_of_entry s h).2]
    exact (keeps_setStack s _ _).mono (by simp)

theorem keeps_storeRegs (base : Word) (ks : List RegIdx) (s : State) :
    KeepsAllBut [.mem] s (State.storeRegs base ks s) := by
  rw [storeRegs_eq]
  intro p hp
  cases p <;> simp_all [Part.unchanged, State.readV]

theorem keeps_loadRegs (base : Word) (ks : List RegIdx) (s : State) :
    KeepsAllBut [.regs] s (State.loadRegs base ks s) := by
  rw [loadRegs_eq]
  intro p hp
  cases p <;> simp_all [Part.unchanged, State.memRead]

theorem keepsOtherRegs_writeV (s : State) (r : RegIdx) (b : Byte) : KeepsOtherRegs [r] s (s.writeV r b) := by
  intro k hk
  exact readV_writeV_other s b (by simpa using hk)

/-- A frame that does not name the registers keeps them all. -/
theorem KeepsAllBut.regs {ps : List Part} {s t : State} (a : KeepsAllBut ps s t) (h : Part.regs ∉ ps) (rs : List RegIdx) :
    KeepsOtherRegs rs s t := fun r _ => a .regs h r

end Sys2Proof.Machine
end

