-- ==== Sys2Proof/Laws/Exec.lean ====
section
/-! SUPPORT. What an iteration is, case by case, and what execution never touches. -/

namespace Sys2Proof.Machine

/-- No instruction writes a strap, RUN, the input record or the queue of records. -/
theorem exec_environment {i : Instr} {s t : State} (h : exec i s = .next t) :
    t.run = s.run ∧ t.shiftSetVY = s.shiftSetVY ∧ t.fx55IncrI = s.fx55IncrI ∧
      t.env = s.env ∧ t.inputs = s.inputs ∧ t.iter = s.iter := by
  have key : KeepsAllBut [.regs, .index, .pc, .stack, .mem, .dt, .st, .fb, .diags] s t := by
    cases i <;>
      simp only [exec, exec00E0, exec00EE, exec1NNN, exec2NNN, exec3XNN, exec4XNN, exec5XY0, exec6XNN, exec7XNN,
        exec8XY0, exec8XY1, exec8XY2, exec8XY3, exec8XY4, exec8XY5, exec8XY6, exec8XY7, exec8XYE, exec9XY0, execANNN,
        execBNNN, execCXNN, execDXYN, execEX9E, execEXA1, execFX07, execFX0A, execFX15, execFX18, execFX1E, execFX29,
        execFX33, execFX55, execFX65, skipIf_eq, incrI_eq, State.writeWithFlag, State.dispClear,
        Host.Outcome.next.injEq] at h <;> subst h
    case op00E0 => exact (keeps_setFB _ _).mono (by simp)
    case op00EE => exact ((keeps_popState s).trans (keeps_writePC _ _)).mono (by simp)
    case op2NNN => exact ((keeps_push s _).trans (keeps_writePC _ _)).mono (by simp)
    case op8XY5 => exact ((keeps_writeV _ _ _).trans (keeps_writeV _ _ _)).mono (by simp)
    case op8XY6 => exact ((keeps_writeV _ _ _).trans (keeps_writeV _ _ _)).mono (by simp)
    case op8XY7 => exact ((keeps_writeV _ _ _).trans (keeps_writeV _ _ _)).mono (by simp)
    case op8XYE => exact ((keeps_writeV _ _ _).trans (keeps_writeV _ _ _)).mono (by simp)
    case opDXYN => exact ((keeps_setFB _ _).trans (keeps_writeV _ _ _)).mono (by simp)
    case opFX0A x =>
      cases s.env.keyPressed with
      | none => exact (keeps_writePC _ _).mono (by simp)
      | some k => exact (keeps_writeV _ _ _).mono (by simp)
    case opFX15 => exact (keeps_writeDT _ _).mono (by simp)
    case opFX18 => exact (keeps_writeST _ _).mono (by simp)
    case opFX33 =>
      exact (((keeps_memWrite _ _ _).trans (keeps_memWrite _ _ _)).trans (keeps_memWrite _ _ _)).mono (by simp)
    case opFX55 => exact ((keeps_storeRegs _ _ _).trans (keeps_writeI _ _)).mono (by simp)
    case opFX65 => exact ((keeps_loadRegs _ _ _).trans (keeps_writeI _ _)).mono (by simp)
    all_goals first
      | exact (keeps_writeV _ _ _).mono (by simp)
      | exact (keeps_writePC _ _).mono (by simp)
      | exact (keeps_writeI _ _).mono (by simp)
  have inputs := key .inputs (by simp)
  have straps := key .straps (by simp)
  exact ⟨key .run (by simp), straps.1, straps.2, key .env (by simp), inputs.1, inputs.2⟩

/-- An iteration of a stopped machine. -/
theorem step_stopped {s : State} (h : s.run = false) : step s = .next s := by
  simp [step, iteration, h]

/-- An iteration whose poll sees a quit request. -/
theorem step_quit {s : State} (h : s.run = true) (q : s.nextEnv.quit = true) : step s = .next s.poll.stop := by
  simp [step, iteration, afterPoll, h, q]

/-- An iteration that executes. -/
theorem step_running {s : State} (h : s.willRun = true) :
    step s = afterCycle (execDecoded (decode s.fetchWord) s.fetched) := by
  simp only [State.willRun, Bool.and_eq_true, Bool.not_eq_true'] at h
  simp only [step, iteration, afterPoll, h.1, poll_env, h.2, if_true]
  rfl

/-- One of the three. -/
theorem run_cases (s : State) :
    s.run = false ∨ (s.run = true ∧ s.nextEnv.quit = true) ∨ s.willRun = true := by
  unfold State.willRun
  cases s.run <;> cases s.nextEnv.quit <;> simp

end Sys2Proof.Machine
end

