-- ==== Sys2Proof/Laws/Launch.lean ====
section
/-! SUPPORT. When a launch exists, and its memory image cell by cell (00_scope.md R9, R10, 70_reset_and_hazards.md R262). -/

namespace Sys2Proof.Machine

theorem config_wf_iff (c : Config) : c.wf = true ↔ c.fontData.length = 80 ∧ c.rom.length ≤ 3584 := by
  unfold Config.wf
  rw [Bool.and_eq_true, decide_eq_true_eq, decide_eq_true_eq]
  rfl

theorem fontBase_toNat : fontBase.toNat = 80 := rfl

theorem romBase_toNat : romBase.toNat = 512 := rfl

theorem image_wf (c : Config) (h : c.wf = true) : (Memory.image c).wf = true := by
  obtain ⟨hf, hr⟩ := (config_wf_iff c).mp h
  refine wf_load _ _ ?_ (wf_load _ _ ?_ rfl)
  · rw [romBase_toNat, memSize_eq]; omega
  · rw [fontBase_toNat, memSize_eq]; omega

theorem image_rom (c : Config) (h : c.wf = true) {k : Nat} (hk : k < c.rom.length) :
    (Memory.image c).read (512 + k) = c.rom.getD k 0 := by
  obtain ⟨hf, hr⟩ := (config_wf_iff c).mp h
  refine read_load_inside _ _ hk ?_ (wf_load _ _ ?_ rfl)
  · rw [romBase_toNat, memSize_eq]; omega
  · rw [fontBase_toNat, memSize_eq]; omega

theorem image_font (c : Config) (h : c.wf = true) {k : Nat} (hk : k < 80) :
    (Memory.image c).read (80 + k) = c.fontData.getD k 0 := by
  obtain ⟨hf, hr⟩ := (config_wf_iff c).mp h
  rw [Memory.image, read_load_outside _ _ (by rw [romBase_toNat]; omega)]
  refine read_load_inside _ _ (by omega) ?_ rfl
  rw [fontBase_toNat, memSize_eq]
  omega

/-- Outside the default font an unlisted cell reads as zero. -/
theorem unlisted_zero {a : Nat} (h : a < 80 ∨ 160 ≤ a) : Memory.unlisted a = 0 := by
  have hl : defaultFont.length = 80 := by decide
  unfold Memory.unlisted
  rw [fontBase_toNat]
  split
  · rw [List.getD_eq_default]
    omega
  · rfl

theorem image_zero (c : Config) (h : c.wf = true) {a : Nat}
    (ha : a < 80 ∨ (160 ≤ a ∧ a < 512) ∨ 512 + c.rom.length ≤ a) : (Memory.image c).read a = 0 := by
  obtain ⟨hf, hr⟩ := (config_wf_iff c).mp h
  rw [Memory.image, read_load_outside _ _ (by rw [romBase_toNat]; omega),
    read_load_outside _ _ (by rw [fontBase_toNat]; omega)]
  exact unlisted_zero (by omega)

/-- What a launch leaves, when there is one. -/
theorem launch_eq (c : Config) (h : c.wf = true) :
    launch c = some { State.reset with
      mem := Memory.image c, shiftSetVY := c.shiftSetVY, fx55IncrI := c.fx55IncrI, fb := c.fb0 } := if_pos h

theorem launch_none (c : Config) (h : c.wf = false) : launch c = none := by simp [launch, h]

end Sys2Proof.Machine
end

