-- ==== Sys2Proof/Laws/PerInstr.lean ====
section
/-! SUPPORT. Statements made per instruction: the operands fit their fields, and the word of the encoder selects the
instruction's own row of the opcode map (30_encoding.md R91, R96). -/

namespace Sys2Proof

theorem nibble_and_ones (c : Nibble) : c &&& 15#4 = c := by revert c; decide

theorem byte_and_ones (b : Byte) : b &&& 255#8 = b := by revert b; decide

/-- A word selects a row when its digits agree with the row's: class and whole word, class and nibble 4, class and byte 2. -/
theorem wordA_and_class (c : Nibble) (nnn : Addr) : wordA c nnn &&& 0xF000 = c ++ (0 : BitVec 12) := by
  unfold wordA
  rw [show (0xF000 : Word) = (0xF : BitVec 4) ++ (0 : BitVec 12) by decide, BitVec.and_append]
  simp [nibble_and_ones]

theorem wordI_and_class (c : Nibble) (x : RegIdx) (nn : Byte) : wordI c x nn &&& 0xF000 = c ++ (0 : BitVec 12) := by
  unfold wordI
  rw [show (0xF000 : Word) = (0xF : BitVec 4) ++ (0 : BitVec (4 + 8)) by decide, BitVec.and_append]
  simp [nibble_and_ones]

theorem wordI_and_byte (c : Nibble) (x : RegIdx) (nn : Byte) :
    wordI c x nn &&& 0xF0FF = c ++ ((0 : BitVec 4) ++ nn) := by
  unfold wordI
  rw [show (0xF0FF : Word) = (0xF : BitVec 4) ++ ((0 : BitVec 4) ++ (0xFF : BitVec 8)) by decide,
    BitVec.and_append, BitVec.and_append]
  simp [nibble_and_ones, byte_and_ones]

theorem wordR_and_class (c : Nibble) (x y n : Fin 16) : wordR c x y n &&& 0xF000 = c ++ (0 : BitVec 12) := by
  unfold wordR
  rw [show (0xF000 : Word) = (0xF : BitVec 4) ++ (0 : BitVec (4 + (4 + 4))) by decide, BitVec.and_append]
  simp [nibble_and_ones]

theorem wordR_and_nibble (c : Nibble) (x y n : Fin 16) :
    wordR c x y n &&& 0xF00F = c ++ ((0 : BitVec 4) ++ ((0 : BitVec 4) ++ nibbleOfFin n)) := by
  unfold wordR
  rw [show (0xF00F : Word) = (0xF : BitVec 4) ++ ((0 : BitVec 4) ++ ((0 : BitVec 4) ++ (0xF : BitVec 4))) by decide,
    BitVec.and_append, BitVec.and_append, BitVec.and_append]
  simp [nibble_and_ones]

/-- The encoder's word selects the instruction's own row. -/
def Laws.EncodesItsRow.Statement (i : Instr) : Prop := i.row.selects (encode i) = true

/-- The operands fit their fields. -/
def Laws.OperandsFit.Statement (i : Instr) : Prop := i.wf = true

theorem reg_fits (r : RegIdx) : (Operand.reg r).fits = true := decide_eq_true r.isLt
theorem imm_fits (nn : Byte) : (Operand.imm nn).fits = true := decide_eq_true nn.isLt
theorem addr_fits (nnn : Addr) : (Operand.addr nnn).fits = true := decide_eq_true nnn.isLt
theorem rows_fits (n : Fin 16) : (Operand.rows n).fits = true := decide_eq_true n.isLt

theorem selects_of_and {row : OpcodeRow} {w : Word} (h : w &&& row.mask = row.matchBits) : row.selects w = true :=
  decide_eq_true h

theorem Laws.EncodesItsRow.op00E0 : Statement .op00E0 := selects_of_and (by decide)
theorem Laws.EncodesItsRow.op00EE : Statement .op00EE := selects_of_and (by decide)
theorem Laws.EncodesItsRow.op1NNN (nnn : Addr) : Statement (.op1NNN nnn) := selects_of_and (wordA_and_class _ _)
theorem Laws.EncodesItsRow.op2NNN (nnn : Addr) : Statement (.op2NNN nnn) := selects_of_and (wordA_and_class _ _)
theorem Laws.EncodesItsRow.op3XNN (x : RegIdx) (nn : Byte) : Statement (.op3XNN x nn) := selects_of_and (wordI_and_class _ _ _)
theorem Laws.EncodesItsRow.op4XNN (x : RegIdx) (nn : Byte) : Statement (.op4XNN x nn) := selects_of_and (wordI_and_class _ _ _)
theorem Laws.EncodesItsRow.op5XY0 (x y : RegIdx) : Statement (.op5XY0 x y) := selects_of_and (wordR_and_nibble _ _ _ _)
theorem Laws.EncodesItsRow.op6XNN (x : RegIdx) (nn : Byte) : Statement (.op6XNN x nn) := selects_of_and (wordI_and_class _ _ _)
theorem Laws.EncodesItsRow.op7XNN (x : RegIdx) (nn : Byte) : Statement (.op7XNN x nn) := selects_of_and (wordI_and_class _ _ _)
theorem Laws.EncodesItsRow.op8XY0 (x y : RegIdx) : Statement (.op8XY0 x y) := selects_of_and (wordR_and_nibble _ _ _ _)
theorem Laws.EncodesItsRow.op8XY1 (x y : RegIdx) : Statement (.op8XY1 x y) := selects_of_and (wordR_and_nibble _ _ _ _)
theorem Laws.EncodesItsRow.op8XY2 (x y : RegIdx) : Statement (.op8XY2 x y) := selects_of_and (wordR_and_nibble _ _ _ _)
theorem Laws.EncodesItsRow.op8XY3 (x y : RegIdx) : Statement (.op8XY3 x y) := selects_of_and (wordR_and_nibble _ _ _ _)
theorem Laws.EncodesItsRow.op8XY4 (x y : RegIdx) : Statement (.op8XY4 x y) := selects_of_and (wordR_and_nibble _ _ _ _)
theorem Laws.EncodesItsRow.op8XY5 (x y : RegIdx) : Statement (.op8XY5 x y) := selects_of_and (wordR_and_nibble _ _ _ _)
theorem Laws.EncodesItsRow.op8XY6 (x y : RegIdx) : Statement (.op8XY6 x y) := selects_of_and (wordR_and_nibble _ _ _ _)
theorem Laws.EncodesItsRow.op8XY7 (x y : RegIdx) : Statement (.op8XY7 x y) := selects_of_and (wordR_and_nibble _ _ _ _)
theorem Laws.EncodesItsRow.op8XYE (x y : RegIdx) : Statement (.op8XYE x y) := selects_of_and (wordR_and_nibble _ _ _ _)
theorem Laws.EncodesItsRow.op9XY0 (x y : RegIdx) : Statement (.op9XY0 x y) := selects_of_and (wordR_and_nibble _ _ _ _)
theorem Laws.EncodesItsRow.opANNN (nnn : Addr) : Statement (.opANNN nnn) := selects_of_and (wordA_and_class _ _)
theorem Laws.EncodesItsRow.opBNNN (nnn : Addr) : Statement (.opBNNN nnn) := selects_of_and (wordA_and_class _ _)
theorem Laws.EncodesItsRow.opCXNN (x : RegIdx) (nn : Byte) : Statement (.opCXNN x nn) := selects_of_and (wordI_and_class _ _ _)
theorem Laws.EncodesItsRow.opDXYN (x y : RegIdx) (n : Fin 16) : Statement (.opDXYN x y n) := selects_of_and (wordR_and_class _ _ _ _)
theorem Laws.EncodesItsRow.opEX9E (x : RegIdx) : Statement (.opEX9E x) := selects_of_and (wordI_and_byte _ _ _)
theorem Laws.EncodesItsRow.opEXA1 (x : RegIdx) : Statement (.opEXA1 x) := selects_of_and (wordI_and_byte _ _ _)
theorem Laws.EncodesItsRow.opFX07 (x : RegIdx) : Statement (.opFX07 x) := selects_of_and (wordI_and_byte _ _ _)
theorem Laws.EncodesItsRow.opFX0A (x : RegIdx) : Statement (.opFX0A x) := selects_of_and (wordI_and_byte _ _ _)
theorem Laws.EncodesItsRow.opFX15 (x : RegIdx) : Statement (.opFX15 x) := selects_of_and (wordI_and_byte _ _ _)
theorem Laws.EncodesItsRow.opFX18 (x : RegIdx) : Statement (.opFX18 x) := selects_of_and (wordI_and_byte _ _ _)
theorem Laws.EncodesItsRow.opFX1E (x : RegIdx) : Statement (.opFX1E x) := selects_of_and (wordI_and_byte _ _ _)
theorem Laws.EncodesItsRow.opFX29 (x : RegIdx) : Statement (.opFX29 x) := selects_of_and (wordI_and_byte _ _ _)
theorem Laws.EncodesItsRow.opFX33 (x : RegIdx) : Statement (.opFX33 x) := selects_of_and (wordI_and_byte _ _ _)
theorem Laws.EncodesItsRow.opFX55 (x : RegIdx) : Statement (.opFX55 x) := selects_of_and (wordI_and_byte _ _ _)
theorem Laws.EncodesItsRow.opFX65 (x : RegIdx) : Statement (.opFX65 x) := selects_of_and (wordI_and_byte _ _ _)

theorem Laws.OperandsFit.op00E0 : Statement .op00E0 := rfl
theorem Laws.OperandsFit.op00EE : Statement .op00EE := rfl
theorem Laws.OperandsFit.op1NNN (nnn : Addr) : Statement (.op1NNN nnn) := by simp [Statement, Instr.wf, Instr.operands, addr_fits]
theorem Laws.OperandsFit.op2NNN (nnn : Addr) : Statement (.op2NNN nnn) := by simp [Statement, Instr.wf, Instr.operands, addr_fits]
theorem Laws.OperandsFit.op3XNN (x : RegIdx) (nn : Byte) : Statement (.op3XNN x nn) := by simp [Statement, Instr.wf, Instr.operands, reg_fits, imm_fits]
theorem Laws.OperandsFit.op4XNN (x : RegIdx) (nn : Byte) : Statement (.op4XNN x nn) := by simp [Statement, Instr.wf, Instr.operands, reg_fits, imm_fits]
theorem Laws.OperandsFit.op5XY0 (x y : RegIdx) : Statement (.op5XY0 x y) := by simp [Statement, Instr.wf, Instr.operands, reg_fits]
theorem Laws.OperandsFit.op6XNN (x : RegIdx) (nn : Byte) : Statement (.op6XNN x nn) := by simp [Statement, Instr.wf, Instr.operands, reg_fits, imm_fits]
theorem Laws.OperandsFit.op7XNN (x : RegIdx) (nn : Byte) : Statement (.op7XNN x nn) := by simp [Statement, Instr.wf, Instr.operands, reg_fits, imm_fits]
theorem Laws.OperandsFit.op8XY0 (x y : RegIdx) : Statement (.op8XY0 x y) := by simp [Statement, Instr.wf, Instr.operands, reg_fits]
theorem Laws.OperandsFit.op8XY1 (x y : RegIdx) : Statement (.op8XY1 x y) := by simp [Statement, Instr.wf, Instr.operands, reg_fits]
theorem Laws.OperandsFit.op8XY2 (x y : RegIdx) : Statement (.op8XY2 x y) := by simp [Statement, Instr.wf, Instr.operands, reg_fits]
theorem Laws.OperandsFit.op8XY3 (x y : RegIdx) : Statement (.op8XY3 x y) := by simp [Statement, Instr.wf, Instr.operands, reg_fits]
theorem Laws.OperandsFit.op8XY4 (x y : RegIdx) : Statement (.op8XY4 x y) := by simp [Statement, Instr.wf, Instr.operands, reg_fits]
theorem Laws.OperandsFit.op8XY5 (x y : RegIdx) : Statement (.op8XY5 x y) := by simp [Statement, Instr.wf, Instr.operands, reg_fits]
theorem Laws.OperandsFit.op8XY6 (x y : RegIdx) : Statement (.op8XY6 x y) := by simp [Statement, Instr.wf, Instr.operands, reg_fits]
theorem Laws.OperandsFit.op8XY7 (x y : RegIdx) : Statement (.op8XY7 x y) := by simp [Statement, Instr.wf, Instr.operands, reg_fits]
theorem Laws.OperandsFit.op8XYE (x y : RegIdx) : Statement (.op8XYE x y) := by simp [Statement, Instr.wf, Instr.operands, reg_fits]
theorem Laws.OperandsFit.op9XY0 (x y : RegIdx) : Statement (.op9XY0 x y) := by simp [Statement, Instr.wf, Instr.operands, reg_fits]
theorem Laws.OperandsFit.opANNN (nnn : Addr) : Statement (.opANNN nnn) := by simp [Statement, Instr.wf, Instr.operands, addr_fits]
theorem Laws.OperandsFit.opBNNN (nnn : Addr) : Statement (.opBNNN nnn) := by simp [Statement, Instr.wf, Instr.operands, addr_fits]
theorem Laws.OperandsFit.opCXNN (x : RegIdx) (nn : Byte) : Statement (.opCXNN x nn) := by simp [Statement, Instr.wf, Instr.operands, reg_fits, imm_fits]
theorem Laws.OperandsFit.opDXYN (x y : RegIdx) (n : Fin 16) : Statement (.opDXYN x y n) := by simp [Statement, Instr.wf, Instr.operands, reg_fits, rows_fits]
theorem Laws.OperandsFit.opEX9E (x : RegIdx) : Statement (.opEX9E x) := by simp [Statement, Instr.wf, Instr.operands, reg_fits]
theorem Laws.OperandsFit.opEXA1 (x : RegIdx) : Statement (.opEXA1 x) := by simp [Statement, Instr.wf, Instr.operands, reg_fits]
theorem Laws.OperandsFit.opFX07 (x : RegIdx) : Statement (.opFX07 x) := by simp [Statement, Instr.wf, Instr.operands, reg_fits]
theorem Laws.OperandsFit.opFX0A (x : RegIdx) : Statement (.opFX0A x) := by simp [Statement, Instr.wf, Instr.operands, reg_fits]
theorem Laws.OperandsFit.opFX15 (x : RegIdx) : Statement (.opFX15 x) := by simp [Statement, Instr.wf, Instr.operands, reg_fits]
theorem Laws.OperandsFit.opFX18 (x : RegIdx) : Statement (.opFX18 x) := by simp [Statement, Instr.wf, Instr.operands, reg_fits]
theorem Laws.OperandsFit.opFX1E (x : RegIdx) : Statement (.opFX1E x) := by simp [Statement, Instr.wf, Instr.operands, reg_fits]
theorem Laws.OperandsFit.opFX29 (x : RegIdx) : Statement (.opFX29 x) := by simp [Statement, Instr.wf, Instr.operands, reg_fits]
theorem Laws.OperandsFit.opFX33 (x : RegIdx) : Statement (.opFX33 x) := by simp [Statement, Instr.wf, Instr.operands, reg_fits]
theorem Laws.OperandsFit.opFX55 (x : RegIdx) : Statement (.opFX55 x) := by simp [Statement, Instr.wf, Instr.operands, reg_fits]
theorem Laws.OperandsFit.opFX65 (x : RegIdx) : Statement (.opFX65 x) := by simp [Statement, Instr.wf, Instr.operands, reg_fits]

end Sys2Proof
end

