-- ==== Sys2Proof/Tests/Slice0.lean ====
section
/-! SUPPORT. Tests on fixed values, taken from the spec: words written out from the patterns of 30_encoding.md R96, and the
vectors of 95_test_vectors.md (E and T numbers in the comments), one step each; the checks of WellFormed.lean refusing an
ill-formed term; and for each statement with hypotheses a witness that meets them. -/

namespace Sys2Proof.Machine.Tests

/-! ## Every constructor's word -/

theorem test_decode_00E0 : decode 0x00E0 = .instruction .op00E0 := by decide
theorem test_decode_00EE : decode 0x00EE = .instruction .op00EE := by decide
theorem test_decode_1NNN : decode 0x1ABC = .instruction (.op1NNN 0xABC) := by decide
theorem test_decode_2NNN : decode 0x2500 = .instruction (.op2NNN 0x500) := by decide
theorem test_decode_3XNN : decode 0x347F = .instruction (.op3XNN 4 0x7F) := by decide
theorem test_decode_4XNN : decode 0x4A05 = .instruction (.op4XNN 0xA 0x05) := by decide
theorem test_decode_5XY0 : decode 0x5120 = .instruction (.op5XY0 1 2) := by decide
theorem test_decode_6XNN : decode 0x6A2F = .instruction (.op6XNN 0xA 0x2F) := by decide
theorem test_decode_7XNN : decode 0x75FF = .instruction (.op7XNN 5 0xFF) := by decide
theorem test_decode_8XY0 : decode 0x8120 = .instruction (.op8XY0 1 2) := by decide
theorem test_decode_8XY1 : decode 0x8121 = .instruction (.op8XY1 1 2) := by decide
theorem test_decode_8XY2 : decode 0x8122 = .instruction (.op8XY2 1 2) := by decide
theorem test_decode_8XY3 : decode 0x8123 = .instruction (.op8XY3 1 2) := by decide
theorem test_decode_8XY4 : decode 0x8124 = .instruction (.op8XY4 1 2) := by decide
theorem test_decode_8XY5 : decode 0x8F25 = .instruction (.op8XY5 0xF 2) := by decide
theorem test_decode_8XY6 : decode 0x8126 = .instruction (.op8XY6 1 2) := by decide
theorem test_decode_8XY7 : decode 0x81F7 = .instruction (.op8XY7 1 0xF) := by decide
theorem test_decode_8XYE : decode 0x812E = .instruction (.op8XYE 1 2) := by decide
theorem test_decode_9XY0 : decode 0x9AB0 = .instruction (.op9XY0 0xA 0xB) := by decide
theorem test_decode_ANNN : decode 0xA2F0 = .instruction (.opANNN 0x2F0) := by decide
theorem test_decode_BNNN : decode 0xBFFF = .instruction (.opBNNN 0xFFF) := by decide
theorem test_decode_CXNN : decode 0xC30F = .instruction (.opCXNN 3 0x0F) := by decide
theorem test_decode_DXYN : decode 0xD7A3 = .instruction (.opDXYN 7 0xA 3) := by decide
theorem test_decode_EX9E : decode 0xE19E = .instruction (.opEX9E 1) := by decide
theorem test_decode_EXA1 : decode 0xEFA1 = .instruction (.opEXA1 0xF) := by decide
theorem test_decode_FX07 : decode 0xF407 = .instruction (.opFX07 4) := by decide
theorem test_decode_FX0A : decode 0xF30A = .instruction (.opFX0A 3) := by decide
theorem test_decode_FX15 : decode 0xF415 = .instruction (.opFX15 4) := by decide
theorem test_decode_FX18 : decode 0xF418 = .instruction (.opFX18 4) := by decide
theorem test_decode_FX1E : decode 0xFF1E = .instruction (.opFX1E 0xF) := by decide
theorem test_decode_FX29 : decode 0xF029 = .instruction (.opFX29 0) := by decide
theorem test_decode_FX33 : decode 0xF033 = .instruction (.opFX33 0) := by decide
theorem test_decode_FX55 : decode 0xF255 = .instruction (.opFX55 2) := by decide
theorem test_decode_FX65 : decode 0xFF65 = .instruction (.opFX65 0xF) := by decide

/-! ## Words that are no instruction (R98, and the list under T6) -/

theorem test_decode_class0 : decode 0x0000 = .unrecognized 0x0000 ∧ decode 0x00E1 = .unrecognized 0x00E1 ∧
    decode 0x01E0 = .unrecognized 0x01E0 := by decide
theorem test_decode_class5_9 : decode 0x512F = .unrecognized 0x512F ∧ decode 0x9AB1 = .unrecognized 0x9AB1 := by decide
theorem test_decode_class8 : decode 0x8128 = .unrecognized 0x8128 ∧ decode 0x812D = .unrecognized 0x812D ∧
    decode 0x812F = .unrecognized 0x812F := by decide
theorem test_decode_classE_F : decode 0xE0A0 = .unrecognized 0xE0A0 ∧ decode 0xF030 = .unrecognized 0xF030 ∧
    decode 0xF1FF = .unrecognized 0xF1FF := by decide

/-! ## Ill-formed terms are refused -/

theorem test_reg_field_refused : Operand.fits ⟨4, 16⟩ = false := by decide
theorem test_imm_field_refused : Operand.fits ⟨8, 256⟩ = false := by decide
theorem test_addr_field_refused : Operand.fits ⟨12, 4096⟩ = false := by decide
theorem test_short_font_refused :
    Config.wf { Config.standard with fontData := List.replicate 79 0 } = false := by decide
theorem test_long_rom_refused : Config.wf { Config.standard with rom := List.replicate 3585 0 } = false := by
  rw [Bool.eq_false_iff, Config.wf, ne_eq, Bool.and_eq_true, List.length_replicate]
  decide
theorem test_unsorted_memory_refused : Memory.wf [(5, 1), (4, 1)] = false := by decide
theorem test_default_cell_refused : Memory.wf [(0x50, 0xF0)] = false := by decide
theorem test_cell_off_the_end_refused : Memory.wf [(4096, 1)] = false := by decide

/-! ## One step -/

/-- The state after one iteration that fetches `op` at the `PC` of `s`. -/
def after (s : State) (op : Nat) : State :=
  match step (s.withFetchWord 16 op) with
  | .next t => t
  | .fault _ => s
  | .refused _ => s

/-- The reset state with one register set. -/
def with1 (r : RegIdx) (b : Byte) : State := State.reset.writeV r b

/-- The reset state with two registers set. -/
def with2 (r : RegIdx) (b : Byte) (q : RegIdx) (c : Byte) : State := (with1 r b).writeV q c

/-- The state with an input record at hand. -/
def given (s : State) (e : Env) : State := { s with inputs := [e] }

/-- A draw: `I = 0x0300`, two sprite bytes there. -/
def sprite (s : State) (a b : Byte) : State := ((s.writeI 0x0300).memWrite 0x0300 a).memWrite 0x0301 b

-- T110, E9
theorem test_00E0 : pixel (after (State.reset.setFB (dispFlip blankScreen 5 6)) 0x00E0).fb 5 6 = false := by decide
-- T15 and T16
theorem test_00EE : (after (State.reset.setStack 2 ((Vector.replicate 16 0).set 1 0x0ABC)) 0x00EE).pc = 0x0ABC := by
  decide
theorem test_00EE_empty : (after State.reset 0x00EE).pc = 0 ∧
    (after State.reset 0x00EE).diags = [⟨.stackUnderflow, 0⟩] := by decide
-- T10
theorem test_1NNN : (after State.reset 0x1ABC).pc = 0x0ABC := by decide
-- T12 and T14
theorem test_2NNN : (after State.reset 0x2ABC).stk[0] = 0x0202 ∧ (after State.reset 0x2ABC).sp = 1 := by decide
theorem test_2NNN_full :
    let s := (State.reset.setStack 16 (Vector.replicate 16 7)).writePC 0x0400
    (after s 0x2500).pc = 0x0500 ∧ (after s 0x2500).sp = 16 ∧ (after s 0x2500).diags = [⟨.stackOverflow, 0x0402⟩] := by
  decide
-- T20, T21, T22, T23
theorem test_3XNN : (after (with1 4 0x7F) 0x347F).pc = 0x0204 ∧ (after (with1 4 0x7E) 0x347F).pc = 0x0202 := by decide
theorem test_4XNN : (after (with1 4 0x7F) 0x447F).pc = 0x0202 ∧ (after (with1 4 0x7E) 0x447F).pc = 0x0204 := by decide
-- T24, T25, T27, T28
theorem test_5XY0 : (after (with2 1 9 2 9) 0x5120).pc = 0x0204 ∧ (after (with2 1 9 2 8) 0x5120).pc = 0x0202 := by decide
theorem test_9XY0 : (after (with2 1 9 2 8) 0x9120).pc = 0x0204 ∧ (after (with2 1 9 2 9) 0x9120).pc = 0x0202 := by decide
-- T30: the fetch and the skip wrap
theorem test_skip_wraps : (after (State.reset.writePC 0xFFFE) 0x3000).pc = 0x0002 := by decide
-- T40, E2, T43, T44
theorem test_6XNN : (after State.reset 0x6F12).readV 15 = 0x12 := by decide
theorem test_7XNN : (after (with1 0 0xFF) 0x7002).readV 0 = 0x01 ∧ (after (with1 15 0xFF) 0x7F01).readV 15 = 0 := by decide
theorem test_8XY0 : (after (with2 1 0x12 2 0x34) 0x8120).readV 1 = 0x34 := by decide
-- T45, T46, T47
theorem test_8XY1 : (after (with2 1 0x0C 2 0x0A) 0x8121).readV 1 = 0x0E := by decide
theorem test_8XY2 : (after (with2 1 0x0C 2 0x0A) 0x8122).readV 1 = 0x08 := by decide
theorem test_8XY3 : (after (with2 1 0x0C 2 0x0A) 0x8123).readV 1 = 0x06 := by decide
-- the example of R148
theorem test_8XY4 : let t := after ((with2 1 0xC8 2 0x64).writeV 15 7) 0x8124
    t.readV 1 = 0x2C ∧ t.readV 15 = 0x07 := by decide
-- E3, T55, T57
theorem test_8XY5 : let t := after (with2 1 2 2 5) 0x8125
    t.readV 1 = 0xFD ∧ t.readV 15 = 0 := by decide
theorem test_8XY5_VF : (after (with2 15 9 2 4) 0x8F25).readV 15 = 1 ∧ (after (with2 1 9 15 4) 0x81F5).readV 1 = 5 := by
  decide
-- T62, T63
theorem test_8XY6 : let t := after (with2 1 5 2 8) 0x8126
    t.readV 1 = 2 ∧ t.readV 15 = 1 := by decide
theorem test_8XY6_strap : let t := after { with2 1 5 2 8 with shiftSetVY := true } 0x8126
    t.readV 1 = 4 ∧ t.readV 15 = 0 ∧ t.readV 2 = 8 := by decide
-- T59, T60, T61
theorem test_8XY7 : let t := after (with2 1 5 2 3) 0x8127
    t.readV 1 = 0xFE ∧ t.readV 15 = 0 := by decide
theorem test_8XY7_equal : let t := after ((with2 1 6 2 6).writeV 15 1) 0x8127
    t.readV 1 = 0 ∧ t.readV 15 = 0 := by decide
-- T68, T69
theorem test_8XYE : let t := after (with2 1 0x81 2 0x40) 0x812E
    t.readV 1 = 2 ∧ t.readV 15 = 1 := by decide
theorem test_8XYE_strap : let t := after { with2 1 0x81 2 0x40 with shiftSetVY := true } 0x812E
    t.readV 1 = 0x80 ∧ t.readV 15 = 0 := by decide
-- T81, T82, T83, T89
theorem test_ANNN : (after State.reset 0xAFFF).ireg = 0x0FFF := by decide
theorem test_FX1E : (after ((with1 1 1).writeI 0x0FFF) 0xF11E).ireg = 0x1000 ∧
    (after ((with1 1 1).writeI 0xFFFF) 0xF11E).ireg = 0 := by decide
theorem test_FX29 : (after (with1 0 0xFF) 0xF029).ireg = 0x054B := by decide
-- T18 and T19
theorem test_BNNN : (after (with1 0 0xFF) 0xBFFF).pc = 0x10FE ∧ (after (with1 3 0x40) 0xB300).pc = 0x0300 := by decide
-- T73
theorem test_CXNN : (after (given State.reset { Env.quiet with rand := 0xA7 }) 0xC30F).readV 3 = 0x07 := by decide
-- T111: clipped at the right and bottom edges
theorem test_DXYN_clips : let t := after (sprite (with2 0 62 1 31) 0xFF 0xFF) 0xD012
    pixel t.fb 62 31 = true ∧ pixel t.fb 63 31 = true ∧ pixel t.fb 0 31 = false ∧ pixel t.fb 62 0 = false ∧
      t.readV 15 = 0 := by decide
-- T118: a collision in row 0 stays recorded
theorem test_DXYN_collides :
    let t := after (sprite (State.reset.setFB (dispFlip blankScreen 0 0)) 0x80 0x80) 0xD012
    pixel t.fb 0 0 = false ∧ pixel t.fb 0 1 = true ∧ t.readV 15 = 1 := by decide
-- T132, T131
theorem test_EX9E : (after (given (with1 1 0x1A) { Env.quiet with keysDown := 0x0400 }) 0xE19E).pc = 0x0204 ∧
    (after (given (with1 1 5) { Env.quiet with keysDown := 0xFFDF }) 0xE19E).pc = 0x0202 := by decide
-- T133, T134
theorem test_EXA1 : (after (with1 1 5) 0xE1A1).pc = 0x0204 ∧
    (after (given (with1 1 5) { Env.quiet with keysDown := 0x0020 }) 0xE1A1).pc = 0x0202 := by decide
-- T146: the read precedes the tick
theorem test_FX07 : let t := after (given (State.reset.writeDT 5) { Env.quiet with tickDue := true }) 0xF407
    t.readV 4 = 5 ∧ t.dt = 4 := by decide
-- E8, T135
theorem test_FX0A : let t := after (given State.reset { Env.quiet with keyPressed := some 0xB }) 0xF30A
    t.readV 3 = 0x0B ∧ t.pc = 0x0202 := by decide
theorem test_FX0A_waits : let t := after (given (with1 3 0x99) { Env.quiet with keysDown := 0xFFFF }) 0xF30A
    t.readV 3 = 0x99 ∧ t.pc = 0x0200 := by decide
-- T141, T142, T143
theorem test_FX15 : (after (given (with1 4 0xFF) { Env.quiet with tickDue := true }) 0xF415).dt = 0xFE ∧
    (after (given (with1 4 0) { Env.quiet with tickDue := true }) 0xF415).dt = 0 := by decide
theorem test_FX18 : (after (given (with1 4 10) { Env.quiet with tickDue := true }) 0xF418).st = 9 := by decide
-- T94: three digits around the top of memory
theorem test_FX33 : let t := after ((with1 0 123).writeI 0x0FFE) 0xF033
    t.memRead 0xFFE = 1 ∧ t.memRead 0xFFF = 2 ∧ t.memRead 0x000 = 3 := by decide
-- the example of R176
theorem test_FX55 : let t := after ({ (with2 0 0x11 1 0x22).writeV 2 0x33 with fx55IncrI := true }.writeI 0x0400) 0xF255
    t.memRead 0x400 = 0x11 ∧ t.memRead 0x402 = 0x33 ∧ t.memRead 0x403 = 0 ∧ t.ireg = 0x0403 := by decide
-- T102: the next fetch reads what FX55 has stored
theorem test_FX55_self_modifying : (after ((with2 0 0x12 1 0).writeI 0x0202) 0xF155).fetchWord = 0x1200 := by decide
-- T99, T101
theorem test_FX65 : let t := after (((with1 3 0x77).writeI 0x0400).memWrite 0x402 0xCC) 0xF265
    t.readV 2 = 0xCC ∧ t.readV 3 = 0x77 ∧ t.ireg = 0x0400 := by decide
theorem test_FX65_wraps : let t := after ({ State.reset with fx55IncrI := true }.writeI 0xFFFF |>.memWrite 0xFFF 5) 0xF065
    t.readV 0 = 5 ∧ t.ireg = 0 := by decide
-- T3 and T4: fetch around the top of memory
theorem test_fetch_wraps : let t := after (State.reset.writePC 0x0FFF) 0x602A
    t.pc = 0x1001 ∧ t.readV 0 = 0x2A ∧ t.memRead 0x000 = 0x2A := by decide
-- T151
theorem test_unrecognized : let t := after State.reset 0x5121
    t.pc = 0x0202 ∧ t.diags = [⟨.unrecognizedOpcode, 0x5121⟩] := by decide
-- R233: the numbers of the three anomalies
theorem test_diagnostic_codes : (after State.reset 0x5121).diags.map Diag.event = [(1, 0x5121)] ∧
    (after (State.reset.setStack 16 (Vector.replicate 16 7)) 0x2500).diags.map Diag.event = [(2, 0x0202)] ∧
    (after State.reset 0x00EE).diags.map Diag.event = [(3, 0)] := by decide
-- T154 and T155
theorem test_quit :
    step (given (State.reset.writeDT 2) { Env.quiet with quit := true, tickDue := true }) =
      .next { State.reset with dt := 2, run := false, env := { Env.quiet with quit := true, tickDue := true }, iter := 1 } :=
  rfl
theorem test_stopped : step State.reset.stop = .next State.reset.stop := rfl
-- R262: the launch of the standard configuration is the reset state
theorem test_font : State.reset.memRead 0x050 = 0xF0 ∧ State.reset.memRead 0x09F = 0x80 ∧ State.reset.memRead 0x0A0 = 0 := by
  decide

/-! ## Witnesses: the hypotheses of each statement can be met together -/

/-- A state that runs, with `op` at its `PC`. -/
def ready (op : Nat) : State := State.reset.withFetchWord 16 op

theorem witness_EncodeOfDecodeIsTheWord : decode 0x8125 = .instruction (.op8XY5 1 2) := by decide
theorem witness_DecoderFollowsTheOpcodeMap : (⟨0xF00F, 0x8005⟩ : OpcodeRow) ∈ opcodeMap ∧
    OpcodeRow.selects ⟨0xF00F, 0x8005⟩ 0x8125 = true ∧ (∀ row ∈ opcodeMap, row.selects 0x5121 = false) := by decide
theorem witness_ReadAfterWrite : (State.reset.memWrite 0x0FFF 1).mem.wf = true ∧
    (0x1FFF : Word).toNat % 4096 = (0x0FFF : Word).toNat % 4096 := by decide
theorem witness_NextFetchSeesAStore : (State.reset.writeI 0x0200).mem.wf = true ∧
    (State.reset.writeI 0x0200).ireg = (State.reset.writeI 0x0200).pc := by decide
theorem witness_ReturnPopsTheProgramCounter_full :
    (State.reset.setStack 16 (Vector.replicate 16 7)).sp.val = (15 : Fin 16).val + 1 := by decide
theorem witness_ReturnPopsTheProgramCounter_one :
    (State.reset.setStack 1 (Vector.replicate 16 7)).sp.val = (0 : Fin 16).val + 1 := by decide
theorem witness_ReturnPopsTheProgramCounter_empty : State.reset.sp.val = 0 := by decide
theorem witness_CallPushesTheReturnAddress_first : State.reset.sp.val = (0 : Fin 16).val := by decide
theorem witness_CallPushesTheReturnAddress_last :
    (State.reset.setStack 15 (Vector.replicate 16 7)).sp.val = (15 : Fin 16).val := by decide
theorem witness_CallPushesTheReturnAddress_full :
    (State.reset.setStack 16 (Vector.replicate 16 7)).sp.val = 16 := by decide
theorem witness_CallThenReturnRestoresThePC :
    (State.reset.setStack 15 (Vector.replicate 16 7)).sp.val = (15 : Fin 16).val := by decide
theorem witness_SubtractAndItsFlag : (14 : RegIdx) ≠ 15 := by decide
theorem witness_ShiftsAndTheirFlag : (14 : RegIdx) ≠ 15 ∧
    (8 : Byte) = (if ({ with2 1 5 2 8 with shiftSetVY := true } : State).shiftSetVY = true
      then (with2 1 5 2 8).readV 2 else (with2 1 5 2 8).readV 1) := by decide
theorem witness_DecimalDigitsAreStored : (State.reset.writeI 0x0FFE).mem.wf = true := by decide
theorem witness_RegistersAreStored : (State.reset.writeI 0x0FF8).mem.wf = true ∧ (15 : RegIdx) ≤ 15 := by decide
theorem witness_RegistersAreLoaded : (0 : RegIdx) ≤ 14 ∧ (14 : RegIdx) < 15 := by decide
theorem witness_HighBitsOfIndexDoNotReachMemory :
    (0x1300 : Word).toNat % 4096 = (State.reset.writeI 0x0300).ireg.toNat % 4096 ∧
      (∃ x, Instr.opFX33 0 = .opFX33 x ∨ Instr.opFX33 0 = .opFX55 x ∨ Instr.opFX33 0 = .opFX65 x) :=
  ⟨by decide, 0, .inl rfl⟩
theorem witness_DrawTogglesTheSpritePixels_collision :
    let s := sprite (State.reset.setFB (dispFlip blankScreen 0 0)) 0x80 0
    spriteBit s 0 1 1 0 0 = true ∧ pixel s.fb 0 0 = true := by decide
theorem witness_DrawTogglesTheSpritePixels_none :
    ∀ px py, spriteBit State.reset 0 1 0 px py = true → pixel State.reset.fb px py = false := by
  intro px py h
  simp [spriteBit] at h
  omega
theorem witness_DrawingTwiceRestoresTheScreen : (0 : RegIdx) ≠ 15 ∧ (1 : RegIdx) ≠ 15 ∧
    (sprite State.reset 0x80 0).fb = blankScreen := by decide
theorem witness_KeyWait : (State.reset.env.keyPressed = none) ∧
    ({ State.reset with env := { Env.quiet with keyPressed := some 15 } } : State).env.keyPressed = some 15 := by decide
theorem witness_WaitingIterationMovesOnlyTheTimers : (ready 0xF30A).willRun = true ∧
    (ready 0xF30A).nextEnv.keyPressed = none ∧ decode (ready 0xF30A).fetchWord = .instruction (.opFX0A 3) := by decide
theorem witness_InputsReachOnlyTheirInstructions : readsInputs (.op2NNN 0x300) = false := by decide
theorem witness_StrapsReachOnlyFourInstructions :
    (∀ x y, Instr.op8XY7 1 2 ≠ .op8XY6 x y ∧ Instr.op8XY7 1 2 ≠ .op8XYE x y) ∧
    (∀ x, Instr.op8XY7 1 2 ≠ .opFX55 x ∧ Instr.op8XY7 1 2 ≠ .opFX65 x) := by simp
theorem witness_StepRunsTheDecodedInstruction : (ready 0x6A2F).run = true ∧ (ready 0x6A2F).nextEnv.quit = false ∧
    decodeBytes ((ready 0x6A2F).memRead (ready 0x6A2F).pc) ((ready 0x6A2F).memRead ((ready 0x6A2F).pc + 1)) =
      .instruction (.op6XNN 0xA 0x2F) ∧
    ∃ t, exec (.op6XNN 0xA 0x2F) ({ ready 0x6A2F with
      env := (ready 0x6A2F).nextEnv, inputs := (ready 0x6A2F).inputs.tail, iter := (ready 0x6A2F).iter + 1
      pc := (ready 0x6A2F).pc + 2 }) = .next t :=
  ⟨by decide, by decide, by decide, _, rfl⟩
theorem witness_UnrecognizedWordIsADiagnosedNoOp : (ready 0x5121).willRun = true ∧
    decode (ready 0x5121).fetchWord = .unrecognized 0x5121 ∧ (ready 0x5121).nextEnv.tickDue = false := by decide
theorem witness_QuitStopsTheLoopForGood :
    (given State.reset { Env.quiet with quit := true }).run = true ∧
    (given State.reset { Env.quiet with quit := true }).nextEnv.quit = true ∧ State.reset.stop.run = false := by decide
theorem witness_StepKeepsTheInvariant : (ready 0x6A2F).Inv ∧ ∃ t, step (ready 0x6A2F) = .next t :=
  ⟨⟨by decide, by decide, by decide⟩, _, rfl⟩
theorem witness_TimersMoveOnlyByTheTick_other : (ready 0x6A2F).willRun = true ∧
    (∀ x, decode (ready 0x6A2F).fetchWord ≠ .instruction (.opFX15 x)) ∧
    (∀ x, decode (ready 0x6A2F).fetchWord ≠ .instruction (.opFX18 x)) := by decide
theorem witness_TimersMoveOnlyByTheTick_FX15 : (ready 0xF415).willRun = true ∧
    decode (ready 0xF415).fetchWord = .instruction (.opFX15 4) := by decide
theorem witness_TimersMoveOnlyByTheTick_FX18 : (ready 0xF418).willRun = true ∧
    decode (ready 0xF418).fetchWord = .instruction (.opFX18 4) := by decide
theorem witness_DelayTimerCountsTicksNotInstructions :
    ∃ t, DelayRun ((given State.reset { Env.quiet with tickDue := true }).withFetchWord 16 0x6A2F) 1 t :=
  ⟨_, .cons (k := 0) (fun ⟨x, h⟩ => absurd h (by revert x; decide)) rfl (.nil _)⟩
theorem witness_SoundTimerAndDiagnosticsAreUnobservable :
    SameProgramView State.reset ((State.reset.writeST 9).diag .unrecognizedOpcode 0) := rfl
theorem witness_NumericCodesOfTheDiagnostics_unrecognized : (ready 0x5121).willRun = true ∧
    decode (ready 0x5121).fetchWord = .unrecognized 0x5121 := by decide
theorem witness_NumericCodesOfTheDiagnostics_overflow :
    let s := (State.reset.setStack 16 (Vector.replicate 16 7)).withFetchWord 16 0x2500
    s.willRun = true ∧ decode s.fetchWord = .instruction (.op2NNN 0x500) ∧ s.sp.val = 16 := by decide
theorem witness_NumericCodesOfTheDiagnostics_underflow : (ready 0x00EE).willRun = true ∧
    decode (ready 0x00EE).fetchWord = .instruction .op00EE ∧ (ready 0x00EE).sp.val = 0 := by decide
theorem witness_LaunchBuildsTheMemoryImage :
    ∃ s, launch { Config.standard with rom := [0x12, 0x00] } = some s ∧ cellOf 0x0201 = 0x200 + 1 ∧
      cellOf 0x009F = 0x050 + 79 ∧ 0x200 + 2 ≤ cellOf 0x0202 := ⟨_, rfl, by decide⟩
theorem witness_LaunchLeavesTheResetValues : ∃ s, launch { Config.standard with fx55IncrI := true } = some s := ⟨_, rfl⟩
theorem witness_PlacedWordIsFetchedNext : (State.reset.writePC 0x0FFF).mem.wf = true := by decide

end Sys2Proof.Machine.Tests
end

namespace Sys2Proof.Machine

/-! ## Which registers the shared operations keep (10_state.md R23, R27) -/

theorem KeepsOtherRegs.trans {rs : List RegIdx} {s t u : State} (a : KeepsOtherRegs rs s t)
    (b : KeepsOtherRegs rs t u) : KeepsOtherRegs rs s u := fun r hr => (b r hr).trans (a r hr)

theorem keeps_skipIf (s : State) (c : Bool) : KeepsAllBut [.pc] s (s.skipIf c) := by
  rw [skipIf_eq]
  exact keeps_writePC s _

theorem keeps_incrI (s : State) (base : Word) (x : RegIdx) : KeepsAllBut [.index] s (s.incrI base x) := by
  rw [incrI_eq]
  exact keeps_writeI s _

/-- A result with its flag writes V[X] and VF alone (R24). -/
theorem keepsOtherRegs_writeWithFlag (s : State) (x : RegIdx) (result flag : Byte) :
    KeepsOtherRegs [x, regVF] s (s.writeWithFlag x result flag) := by
  intro k hk
  obtain ⟨hx, hF⟩ : k ≠ x ∧ k ≠ 15 := by simpa using hk
  rw [readV_writeWithFlag, if_neg hF, if_neg hx]

theorem keepsOtherRegs_loadRegs (base : Word) (ks : List RegIdx) (s : State) :
    KeepsOtherRegs ks s (State.loadRegs base ks s) := by
  intro k hk
  rw [loadRegs_readV, if_neg hk]

/-- FX0A writes V[X] when a key is reported, and no register while it waits (44_keypad_timers.md R203). -/
theorem keepsOtherRegs_awaitKey (s : State) (x : RegIdx) (key : Option Key) :
    KeepsOtherRegs [x] s (s.awaitKey x key) := by
  cases key with
  | none => exact (keeps_writePC s _).regs (by decide) [x]
  | some k => exact keepsOtherRegs_writeV s x _

/-- Settles O35: each instruction is composed of shared operations, and each of these keeps the registers outside its
destinations; an instruction with no destination is framed by parts other than the registers. -/
theorem onlyTheDestinationRegistersChange : Obligations.OnlyTheDestinationRegistersChange := by
  intro i s
  cases i with
  | op6XNN | op7XNN | op8XY0 | op8XY1 | op8XY2 | op8XY3 | op8XY4 | opCXNN | opFX07 =>
    exact ⟨_, rfl, keepsOtherRegs_writeV s _ _⟩
  | op8XY5 | op8XY6 | op8XY7 | op8XYE =>
    exact ⟨_, rfl, keepsOtherRegs_writeWithFlag s _ _ _⟩
  | opDXYN =>
    exact ⟨_, rfl, ((keeps_setFB s _).regs (by decide) _).trans (keepsOtherRegs_writeV _ _ _)⟩
  | opFX0A => exact ⟨_, rfl, keepsOtherRegs_awaitKey s _ _⟩
  | opFX65 =>
    exact ⟨_, rfl, (keepsOtherRegs_loadRegs _ _ s).trans ((keeps_incrI _ _ _).regs (by decide) _)⟩
  | op3XNN | op4XNN | op5XY0 | op9XY0 | opEX9E | opEXA1 =>
    exact ⟨_, rfl, (keeps_skipIf s _).regs (by decide) _⟩
  | op1NNN | opBNNN => exact ⟨_, rfl, (keeps_writePC s _).regs (by decide) _⟩
  | op00EE => exact ⟨_, rfl, ((keeps_popState s).trans (keeps_writePC _ _)).regs (by decide) _⟩
  | op2NNN => exact ⟨_, rfl, ((keeps_push s _).trans (keeps_writePC _ _)).regs (by decide) _⟩
  | opANNN | opFX1E | opFX29 => exact ⟨_, rfl, (keeps_writeI s _).regs (by decide) _⟩
  | opFX15 => exact ⟨_, rfl, (keeps_writeDT s _).regs (by decide) _⟩
  | opFX18 => exact ⟨_, rfl, (keeps_writeST s _).regs (by decide) _⟩
  | op00E0 => exact ⟨_, rfl, (keeps_setFB s _).regs (by decide) _⟩
  | opFX33 =>
    exact ⟨_, rfl,
      (((keeps_memWrite s _ _).trans (keeps_memWrite _ _ _)).trans (keeps_memWrite _ _ _)).regs (by decide) _⟩
  | opFX55 => exact ⟨_, rfl, ((keeps_storeRegs _ _ s).trans (keeps_incrI _ _ _)).regs (by decide) _⟩

end Sys2Proof.Machine

namespace Sys2Proof

/-! ## A word of the encoder, decoded again (30_encoding.md R95, R96) -/

/-- The class digit selects the general table, and the sub-table key, where there is one, selects the instruction. -/
theorem decode_encode (i : Instr) : decode (encode i) = .instruction i := by
  cases i with
  | op00E0 | op00EE => rfl
  | op1NNN | op2NNN | op3XNN | op4XNN | op5XY0 | op6XNN | op7XNN | op9XY0 | opANNN | opBNNN | opCXNN | opDXYN =>
    rw [encode, decode_of_class (by simp)]
    simp [decodeClass]
  | op8XY0 | op8XY1 | op8XY2 | op8XY3 | op8XY4 | op8XY5 | op8XY6 | op8XY7 | op8XYE =>
    rw [encode, decode_of_class (by simp)]
    simp [decodeClass, decodeClass8]
  | opEX9E | opEXA1 =>
    rw [encode, decode_of_class (by simp)]
    simp [decodeClass, decodeClassE]
  | opFX07 | opFX0A | opFX15 | opFX18 | opFX1E | opFX29 | opFX33 | opFX55 | opFX65 =>
    rw [encode, decode_of_class (by simp)]
    simp [decodeClass, decodeClassF]

theorem decodeTableWord_encode (i : Instr) : decodeTableWord 16 (encode i).toNat = some i := by
  simp [decodeTableWord, decodeBytes, tableWord_toNat, opcodeOf_wordBytes, decode_encode]

end Sys2Proof

namespace Sys2Proof.Machine

/-! ## The fetch step (20_memory.md R66) -/

/-- Settles O7: the opcode is the two bytes put together, and the advance is one write of PC. -/
theorem fetchIsBigEndianAndAdvancesByTwo : Obligations.FetchIsBigEndianAndAdvancesByTwo := by
  intro s
  refine ⟨?opcode, add_two_toNat s.pc, keeps_writePC s _⟩
  case opcode =>
    rw [State.fetchWord, opcodeOf_toNat, Nat.mul_comm]

/-! ## Which parts the remaining shared operations keep (20_memory.md R62) -/

theorem keeps_writeWithFlag (s : State) (x : RegIdx) (result flag : Byte) :
    KeepsAllBut [.regs] s (s.writeWithFlag x result flag) :=
  ((keeps_writeV s x result).trans (keeps_writeV _ regVF flag)).mono (by simp)

/-- FX0A writes V[X] when a key is reported and PC while it waits (44_keypad_timers.md R203). -/
theorem keeps_awaitKey (s : State) (x : RegIdx) (key : Option Key) :
    KeepsAllBut [.regs, .pc] s (s.awaitKey x key) := by
  cases key with
  | none => exact (keeps_writePC s _).mono (by simp)
  | some k => exact (keeps_writeV s x _).mono (by simp)

theorem keeps_memWrite_memWrite (s : State) (a b : Word) (v w : Byte) :
    KeepsAllBut [.mem] s ((s.memWrite a v).memWrite b w) :=
  ((keeps_memWrite s a v).trans (keeps_memWrite _ b w)).mono (by simp)

/-- Settles O34: each instruction is composed of shared operations, and the parts these write are the parts its rule
lists. -/
theorem onlyTheListedPartsChange : Obligations.OnlyTheListedPartsChange := by
  intro i s
  cases i with
  | op6XNN | op7XNN | op8XY0 | op8XY1 | op8XY2 | op8XY3 | op8XY4 | opCXNN | opFX07 =>
    exact ⟨_, rfl, keeps_writeV s _ _⟩
  | op8XY5 | op8XY6 | op8XY7 | op8XYE => exact ⟨_, rfl, keeps_writeWithFlag s _ _ _⟩
  | op3XNN | op4XNN | op5XY0 | op9XY0 | opEX9E | opEXA1 => exact ⟨_, rfl, keeps_skipIf s _⟩
  | op1NNN | opBNNN => exact ⟨_, rfl, keeps_writePC s _⟩
  | op2NNN => exact ⟨_, rfl, ((keeps_push s _).trans (keeps_writePC _ _)).mono (by simp [mayChange])⟩
  | op00EE => exact ⟨_, rfl, ((keeps_popState s).trans (keeps_writePC _ _)).mono (by simp [mayChange])⟩
  | op00E0 => exact ⟨_, rfl, keeps_setFB s _⟩
  | opDXYN => exact ⟨_, rfl, ((keeps_setFB s _).trans (keeps_writeV _ _ _)).mono (by simp [mayChange])⟩
  | opFX0A => exact ⟨_, rfl, keeps_awaitKey s _ _⟩
  | opANNN | opFX1E | opFX29 => exact ⟨_, rfl, keeps_writeI s _⟩
  | opFX15 => exact ⟨_, rfl, keeps_writeDT s _⟩
  | opFX18 => exact ⟨_, rfl, keeps_writeST s _⟩
  | opFX33 =>
    exact ⟨_, rfl,
      ((keeps_memWrite_memWrite s _ _ _ _).trans (keeps_memWrite _ _ _)).mono (by simp [mayChange])⟩
  | opFX55 => exact ⟨_, rfl, (keeps_storeRegs _ _ s).trans (keeps_incrI _ _ _)⟩
  | opFX65 => exact ⟨_, rfl, (keeps_loadRegs _ _ s).trans (keeps_incrI _ _ _)⟩

/-! ## A word placed where the next cycle fetches (log entries 1 and 2) -/

/-- The two bytes of a fetch lie in different cells, also across the top of memory. -/
theorem cellOf_succ_ne (a : Word) : cellOf (a + 1) ≠ cellOf a := by
  intro h
  have offsets : cellOf (effAddr a 1) = cellOf (effAddr a 0) := by simpa [effAddr] using h
  exact Nat.one_ne_zero (cellOf_effAddr_inj (by decide) (by decide) offsets)

theorem fetchWord_placeWord (s : State) (op : Word) (hm : s.mem.wf = true) : (s.placeWord op).fetchWord = op := by
  have high : (s.placeWord op).memRead s.pc = (wordBytes op).1 := by
    rw [State.placeWord, memRead_memWrite_other _ _ (cellOf_succ_ne s.pc).symm, memRead_memWrite s _ _ _ hm, if_pos rfl]
  have low : (s.placeWord op).memRead (s.pc + 1) = (wordBytes op).2 := by
    rw [State.placeWord, memRead_memWrite _ _ _ _ (wf_memWrite s _ _ hm), if_pos rfl]
  have hpc : (s.placeWord op).pc = s.pc := rfl
  rw [State.fetchWord, hpc, high, low, opcodeOf_wordBytes]

theorem keeps_placeWord (s : State) (op : Word) : KeepsAllBut [.mem] s (s.placeWord op) :=
  keeps_memWrite_memWrite s _ _ _ _

theorem keepsBytesOutside_placeWord (s : State) (op : Word) : KeepsBytesOutside s.pc 2 s (s.placeWord op) := by
  intro a outside
  have high : cellOf a ≠ cellOf s.pc := by simpa [effAddr] using outside 0 (by decide)
  have low : cellOf a ≠ cellOf (s.pc + 1) := outside 1 (by decide)
  rw [State.placeWord, memRead_memWrite_other _ _ low, memRead_memWrite_other _ _ high]

@[simp] theorem keepRunning_fetchWord (s : State) : s.keepRunning.fetchWord = s.fetchWord := rfl

theorem keeps_keepRunning (s : State) : KeepsAllBut [.run, .inputs] s s.keepRunning := by
  intro p hp
  cases p <;> simp_all [Part.unchanged, State.keepRunning, State.readV, State.memRead]

theorem keepRunning_willRun (s : State) : s.keepRunning.willRun = true := by
  unfold State.willRun State.nextEnv State.keepRunning
  cases s.inputs <;> rfl

theorem withFetchWord_encode (s : State) (i : Instr) :
    s.withFetchWord 16 (encode i).toNat = (s.placeWord (encode i)).keepRunning := by
  rw [State.withFetchWord, tableWord_toNat]

/-- Settles O53: the fetch reads back the two bytes placed, and the decoder inverts the encoder on them. -/
theorem placedWordIsFetchedNext : Obligations.PlacedWordIsFetchedNext := by
  intro s i hm
  rw [withFetchWord_encode]
  refine ⟨decodeTableWord_encode i, keepRunning_willRun _, ?fetched, ?parts, ?bytes⟩
  case fetched => rw [keepRunning_fetchWord, fetchWord_placeWord s _ hm, decode_encode]
  case parts => exact (keeps_placeWord s _).trans (keeps_keepRunning _)
  case bytes => exact keepsBytesOutside_placeWord s _

end Sys2Proof.Machine

namespace Sys2Proof

/-! ## The words the decoder recognizes (30_encoding.md R95, R96) -/

/-- Settles O1: the encoder's own round trip. -/
theorem decodeOfEncodeIsTheInstruction : Obligations.DecodeOfEncodeIsTheInstruction := decode_encode

theorem encode_of_decodeClass8 {op : Word} {i : Instr} (class8 : (fieldC op).toNat = 8)
    (h : decodeClass8 op = .instruction i) : encode i = op := by
  unfold decodeClass8 at h
  split at h
  case h_10 => cases h
  all_goals
    next key =>
      cases h
      exact eq_wordR class8 key

theorem encode_of_decodeClassE {op : Word} {i : Instr} (classE : (fieldC op).toNat = 14)
    (h : decodeClassE op = .instruction i) : encode i = op := by
  unfold decodeClassE at h
  split at h
  case h_3 => cases h
  all_goals
    next key =>
      cases h
      exact eq_wordI classE key

theorem encode_of_decodeClassF {op : Word} {i : Instr} (classF : (fieldC op).toNat = 15)
    (h : decodeClassF op = .instruction i) : encode i = op := by
  unfold decodeClassF at h
  split at h
  case h_10 => cases h
  all_goals
    next key =>
      cases h
      exact eq_wordI classF key

/-- The cases are the rows of the general table in its order, classes 1 to F and the rest: format A, format I, the
register pairs of 5 and 9 with nibble 4 zero, format D, and the three sub-tables. -/
theorem encode_of_decodeClass {op : Word} {i : Instr} (h : decodeClass op = .instruction i) : encode i = op := by
  unfold decodeClass at h
  split at h
  case h_1 c | h_2 c | h_10 c | h_11 c => cases h; exact eq_wordA c
  case h_3 c | h_4 c | h_6 c | h_7 c | h_12 c => cases h; exact eq_wordI c rfl
  case h_5 c | h_9 c =>
    split at h
    case isTrue zero => cases h; exact eq_wordR c (congrArg Fin.val zero)
    case isFalse => cases h
  case h_13 c => cases h; exact eq_wordR c rfl
  case h_8 c => exact encode_of_decodeClass8 c h
  case h_14 c => exact encode_of_decodeClassE c h
  case h_15 c => exact encode_of_decodeClassF c h
  case h_16 => cases h

theorem encode_of_decode {op : Word} {i : Instr} (h : decode op = .instruction i) : encode i = op := by
  unfold decode at h
  split at h
  case isTrue whole => cases h; exact whole.symm
  case isFalse =>
    split at h
    case isTrue whole => cases h; exact whole.symm
    case isFalse => exact encode_of_decodeClass h

/-- Settles O2: whatever the decoder reads off the word, it is the digits the encoder writes back. -/
theorem encodeOfDecodeIsTheWord : Obligations.EncodeOfDecodeIsTheWord := fun _ _ => encode_of_decode

/-! ## The opcode map (30_encoding.md R96) -/

/-- The row of the opcode map that a decoded word belongs to, if any. -/
def Decoded.row : Decoded → Option OpcodeRow
  | .instruction i => some i.row
  | .unrecognized _ => none

theorem Decoded.row_eq_some {d : Decoded} {row : OpcodeRow} :
    d.row = some row ↔ ∃ i, d = .instruction i ∧ i.row = row := by
  cases d <;> simp [Decoded.row]

theorem row_mem_opcodeMap (i : Instr) : i.row ∈ opcodeMap := by
  cases i <;> exact of_decide_eq_true rfl

/-- Each row's match word, the pattern with every letter 0, decodes to an instruction of that row. -/
theorem decode_matchBits : ∀ row ∈ opcodeMap, (decode row.matchBits).row = some row := by decide

theorem row_selects_encode (i : Instr) : i.row.selects (encode i) = true := by
  apply selects_of_and
  cases i with
  | op00E0 | op00EE => rfl
  | op1NNN | op2NNN | opANNN | opBNNN => exact wordA_and_class _ _
  | op3XNN | op4XNN | op6XNN | op7XNN | opCXNN => exact wordI_and_class _ _ _
  | op5XY0 | op8XY0 | op8XY1 | op8XY2 | op8XY3 | op8XY4 | op8XY5 | op8XY6 | op8XY7 | op8XYE | op9XY0 =>
    exact wordR_and_nibble _ _ _ _
  | opDXYN => exact wordR_and_class _ _ _ _
  | opEX9E | opEXA1 | opFX07 | opFX0A | opFX15 | opFX18 | opFX1E | opFX29 | opFX33 | opFX55 | opFX65 =>
    exact wordI_and_byte _ _ _

theorem and_mask_of_selects {row : OpcodeRow} {op : Word} (h : row.selects op = true) :
    op &&& row.mask = row.matchBits := of_decide_eq_true h

/-- Every row of the map fixes the whole class digit. -/
theorem fieldC_mask : ∀ row ∈ opcodeMap, fieldC row.mask = 0xF := by decide

theorem fieldC_of_selects {i : Instr} {op : Word} (h : i.row.selects op = true) :
    (fieldC op).toNat = i.row.matchBits.toNat / 4096 := by
  have ones : i.row.mask.extractLsb' 12 4 = 0xF := fieldC_mask _ (row_mem_opcodeMap i)
  rw [← and_mask_of_selects h, ← fieldC_toNat, fieldC, fieldC, BitVec.extractLsb'_and, ones]
  exact congrArg BitVec.toNat (nibble_and_ones _).symm

theorem fieldN_of_selects {row : OpcodeRow} {op : Word} (h : row.selects op = true) (mask : row.mask = 0xF00F) :
    (fieldN op).val = row.matchBits.toNat % 16 := by
  have ones : BitVec.extractLsb' 0 4 (0xF00F : Word) = 0xF := by decide
  rw [← and_mask_of_selects h, ← fieldN_val, fieldN, fieldN, BitVec.extractLsb'_and, mask, ones]
  exact congrArg BitVec.toNat (nibble_and_ones _).symm

theorem fieldNN_of_selects {row : OpcodeRow} {op : Word} (h : row.selects op = true) (mask : row.mask = 0xF0FF) :
    (fieldNN op).toNat = row.matchBits.toNat % 256 := by
  have ones : BitVec.extractLsb' 0 8 (0xF0FF : Word) = 0xFF := by decide
  rw [← and_mask_of_selects h, ← fieldNN_toNat, fieldNN, fieldNN, BitVec.extractLsb'_and, mask, ones]
  exact congrArg BitVec.toNat (byte_and_ones _).symm

/-- A selected row fixes the class digit and the sub-table key, and these are all the decoder's tables look at. -/
theorem decode_row_of_selects {i : Instr} {op : Word} (h : i.row.selects op = true) :
    (decode op).row = some i.row := by
  have digit := fieldC_of_selects h
  have general (nonzero : i.row.matchBits.toNat / 4096 ≠ 0) : decode op = decodeClass op :=
    decode_of_class fun zero => nonzero (digit ▸ congrArg BitVec.toNat zero)
  cases i with
  | op00E0 | op00EE =>
    have whole : op = _ := BitVec.and_allOnes.symm.trans (and_mask_of_selects h)
    rw [whole]
    rfl
  | op1NNN | op2NNN | op3XNN | op4XNN | op6XNN | op7XNN | opANNN | opBNNN | opCXNN | opDXYN =>
    simp [general, decodeClass, digit, Instr.row, Decoded.row]
  | op5XY0 | op9XY0 =>
    have zero : fieldN op = 0 := Fin.ext (by simp [fieldN_of_selects h rfl, Instr.row])
    simp [general, decodeClass, digit, zero, Instr.row, Decoded.row]
  | op8XY0 | op8XY1 | op8XY2 | op8XY3 | op8XY4 | op8XY5 | op8XY6 | op8XY7 | op8XYE =>
    simp [general, decodeClass, decodeClass8, digit, fieldN_of_selects h rfl, Instr.row, Decoded.row]
  | opEX9E | opEXA1 =>
    simp [general, decodeClass, decodeClassE, digit, fieldNN_of_selects h rfl, Instr.row, Decoded.row]
  | opFX07 | opFX0A | opFX15 | opFX18 | opFX1E | opFX29 | opFX33 | opFX55 | opFX65 =>
    simp [general, decodeClass, decodeClassF, digit, fieldNN_of_selects h rfl, Instr.row, Decoded.row]

theorem row_of_decode {op : Word} {i : Instr} (h : decode op = .instruction i) :
    i.row ∈ opcodeMap ∧ i.row.selects op = true :=
  ⟨row_mem_opcodeMap i, encode_of_decode h ▸ row_selects_encode i⟩

/-- Settles O3: a decoded word is its instruction's own word, which selects the row; a selected row fixes what the
decoder looks at; and a rejected word is rejected under its own name. -/
theorem decoderFollowsTheOpcodeMap : Obligations.DecoderFollowsTheOpcodeMap := by
  refine ⟨fun _ _ => row_of_decode, ?selected, ?unselected⟩
  case selected =>
    intro op row mem sel
    obtain ⟨i, -, rfl⟩ := Decoded.row_eq_some.mp (decode_matchBits row mem)
    exact Decoded.row_eq_some.mp (decode_row_of_selects sel)
  case unselected =>
    intro op rejected
    cases h : decode op with
    | instruction i =>
      obtain ⟨mem, sel⟩ := row_of_decode h
      exact absurd sel (by simp [rejected i.row mem])
    | unrecognized w => rw [decode_unrecognized h]

/-- Settles O6, by running the decoder on the sixteen words. -/
theorem writtenOutWordsDecode : Obligations.WrittenOutWordsDecode := by
  unfold Obligations.WrittenOutWordsDecode
  decide

end Sys2Proof

namespace Sys2Proof.Machine

/-! ## A step whose word is an instruction (30_encoding.md R90, 60_exceptions.md R247) -/

theorem step_of_exec {s t : State} {i : Instr} (will : s.willRun = true) (dec : decode s.fetchWord = .instruction i)
    (run : exec i s.fetched = .next t) : step s = .next t.tickIfDue := by
  rw [step_running will, dec, execDecoded, run]
  rfl

/-- A timer tick as one update of the two timers, clamped at 0 (60_exceptions.md R241). -/
theorem tickIfDue_eq_ite (s : State) :
    s.tickIfDue = if s.env.tickDue = true then
      { s with dt := if s.dt = 0 then 0 else s.dt - 1, st := if s.st = 0 then 0 else s.st - 1 } else s := by
  rw [State.tickIfDue, State.timerTick, countDown_eq, countDown_eq]
  rfl

/-- Settles O39: the running case of a step, with the tick decided by the record polled, which no instruction writes. -/
theorem stepRunsTheDecodedInstruction : Obligations.StepRunsTheDecodedInstruction := by
  intro s t i run noQuit dec exe
  have will : s.willRun = true := by simp [State.willRun, run, noQuit]
  obtain ⟨-, -, -, polled, -, -⟩ := exec_environment exe
  rw [step_of_exec will dec exe, tickIfDue_eq_ite, polled]

end Sys2Proof.Machine

namespace Sys2Proof.Machine

/-! ## Calls and returns (40_flow.md R120, R122) -/

theorem exec_call_of_room (s : State) (nnn : Addr) {k : Fin 16} (room : s.sp.val = k.val) :
    exec (.op2NNN nnn) s =
      .next ((s.setStack ⟨k.val + 1, by omega⟩ (s.stk.set k.val s.pc)).writePC (zextAddr nnn)) := by
  rw [← push_of_room s s.pc room]
  rfl

theorem exec_return_of_entry (s : State) {k : Fin 16} (entry : s.sp.val = k.val + 1) :
    exec .op00EE s = .next ((s.setStack ⟨k.val, by omega⟩ s.stk).writePC s.stk[k.val]) := by
  obtain ⟨value, state⟩ := pop_of_entry s entry
  rw [← value, ← state]
  rfl

/-- A call, the fetch of the return and the return come to one write: the return address stays in the entry the call
used, which is no longer valid (10_state.md R34). -/
theorem exec_call_then_return (s : State) (nnn : Addr) {k : Fin 16} (room : s.sp.val = k.val) :
    ∃ t, exec (.op2NNN nnn) s = .next t ∧
      exec .op00EE t.advance = .next (s.setStack s.sp (s.stk.set k.val s.pc)) := by
  refine ⟨_, exec_call_of_room s nnn room, ?_⟩
  have depth : (⟨k.val, by omega⟩ : Fin 17) = s.sp := Fin.ext room.symm
  have address : (s.stk.set k.val s.pc)[k.val] = s.pc := Vector.getElem_set_self k.isLt
  rw [exec_return_of_entry _ (k := k) rfl, depth]
  simp only [advance_eq, writePC_stk, setStack_stk, address]
  rfl

/-- Settles O13: call and return leave one write of the entry the call used, and that write keeps every other entry. -/
theorem callThenReturnRestoresThePC : Obligations.CallThenReturnRestoresThePC := by
  intro s nnn k room
  obtain ⟨t, call, ret⟩ := exec_call_then_return s nnn room
  refine ⟨t, _, call, ret, rfl, rfl, ?others, keeps_setStack s _ _⟩
  case others =>
    intro j ne
    exact Vector.getElem_set_ne k.isLt j.isLt fun same => ne (Fin.ext same.symm)

/-! ## Jumps (40_flow.md R121, R123) -/

/-- The target of BNNN is at most 0x0FFF + 0xFF, so the 16-bit sum does not wrap. -/
theorem zextAddr_add_zextByte_toNat (nnn : Addr) (b : Byte) :
    (zextAddr nnn + zextByte b).toNat = nnn.toNat + b.toNat := by
  have := nnn.isLt
  have := b.isLt
  rw [BitVec.toNat_add, zextAddr_toNat, zextByte_toNat]
  omega

/-- Settles O11: each jump is one write of `PC`. -/
theorem jumpsReplaceTheProgramCounter : Obligations.JumpsReplaceTheProgramCounter := by
  intro s nnn
  constructor
  · exact ⟨_, rfl, zextAddr_toNat nnn, keeps_writePC s _⟩
  · exact ⟨_, rfl, zextAddr_add_zextByte_toNat nnn _, keeps_writePC s _⟩

/-! ## Skips (40_flow.md R124 to R128) -/

theorem skipIf_pc_toNat (s : State) (c : Bool) :
    (s.skipIf c).pc.toNat = if c then (s.pc.toNat + 2) % 65536 else s.pc.toNat := by
  cases c with
  | false => rfl
  | true => exact add_two_toNat s.pc

theorem exec_skip_when {i : Instr} {s : State} {p : Prop} [Decidable p]
    (skip : exec i s = .next (s.skipIf (decide p))) :
    ∃ t, exec i s = .next t ∧ t.pc.toNat = (if p then (s.pc.toNat + 2) % 65536 else s.pc.toNat) ∧
      KeepsAllBut [.pc] s t :=
  ⟨_, skip, by simp [skipIf_pc_toNat], keeps_skipIf s _⟩

theorem exec_skip_unless {i : Instr} {s : State} {p : Prop} [Decidable p]
    (skip : exec i s = .next (s.skipIf (decide ¬p))) :
    ∃ t, exec i s = .next t ∧ t.pc.toNat = (if p then s.pc.toNat else (s.pc.toNat + 2) % 65536) ∧
      KeepsAllBut [.pc] s t :=
  ⟨_, skip, by simp [skipIf_pc_toNat], keeps_skipIf s _⟩

/-- Settles O14: 3XNN skips when V[X] = NN and 4XNN unless it is. -/
theorem immediateSkips : Obligations.ImmediateSkips :=
  fun _ _ _ => ⟨exec_skip_when rfl, exec_skip_unless rfl⟩

/-- Settles O15: 5XY0 skips when V[X] = V[Y] and 9XY0 unless they are equal. -/
theorem registerSkips : Obligations.RegisterSkips :=
  fun _ _ _ => ⟨exec_skip_when rfl, exec_skip_unless rfl⟩

end Sys2Proof.Machine

namespace Sys2Proof.Machine

/-! ## Results written to V[X] alone (41_alu.md R141 to R147) -/

/-- The frame of an instruction whose one effect is a register write: VF is kept unless it is the destination. -/
theorem frames_writeV (s : State) (x : RegIdx) (b : Byte) :
    KeepsOtherRegs [x] s (s.writeV x b) ∧ KeepsAllBut [.regs] s (s.writeV x b) :=
  ⟨keepsOtherRegs_writeV s x b, keeps_writeV s x b⟩

/-- Settles O16: each of the three is one write of V[X], and the byte sum of 7XNN is the sum modulo 256. -/
theorem loadAddImmediateAndCopy : Obligations.LoadAddImmediateAndCopy := by
  intro s x y nn
  refine ⟨?load, ?add, ?copy⟩
  case load => exact ⟨_, rfl, readV_writeV_same s x nn, frames_writeV s x nn⟩
  case add => exact ⟨_, rfl, by rw [readV_writeV_same, BitVec.toNat_add], frames_writeV s x _⟩
  case copy => exact ⟨_, rfl, readV_writeV_same s x _, frames_writeV s x _⟩

/-- Settles O17: each of the three is one write of V[X], and the bitwise operation on bytes acts bit by bit. -/
theorem logicInstructionsBitByBit : Obligations.LogicInstructionsBitByBit := by
  intro s x y
  refine ⟨?or, ?and, ?xor⟩
  case or => exact ⟨_, rfl, fun k => by rw [readV_writeV_same, BitVec.getLsbD_or], frames_writeV s x _⟩
  case and => exact ⟨_, rfl, fun k => by rw [readV_writeV_same, BitVec.getLsbD_and], frames_writeV s x _⟩
  case xor => exact ⟨_, rfl, fun k => by rw [readV_writeV_same, BitVec.getLsbD_xor], frames_writeV s x _⟩

end Sys2Proof.Machine

namespace Sys2Proof.Machine

/-! ## Writes of `I` alone (42_index_memory.md R170 to R172) -/

/-- The address of a glyph is at most 0x50 + 5 * 0xFF, so the 16-bit sum does not wrap. -/
theorem fontBase_add_five_mul_toNat (b : Byte) : (fontBase + 5 * zextByte b).toNat = 0x50 + 5 * b.toNat := by
  have five : (5 : Word).toNat = 5 := rfl
  have := b.isLt
  rw [BitVec.toNat_add, BitVec.toNat_mul, fontBase_toNat, zextByte_toNat, five]
  omega

/-- Settles O22: each of the three is one write of `I`; only the sum of FX1E can wrap. -/
theorem indexRegisterLoads : Obligations.IndexRegisterLoads := by
  intro s x nnn
  refine ⟨?load, ?add, ?glyph⟩
  case load => exact ⟨_, rfl, zextAddr_toNat nnn, keeps_writeI s _⟩
  case add => exact ⟨_, rfl, by rw [writeI_ireg, BitVec.toNat_add, zextByte_toNat], keeps_writeI s _⟩
  case glyph => exact ⟨_, rfl, fontBase_add_five_mul_toNat _, keeps_writeI s _⟩

/-! ## Stores through `I` (42_index_memory.md R173) -/

theorem cellOf_effAddr_ne (base : Word) {j k : Nat} (hj : j < 4096) (hk : k < 4096) (ne : j ≠ k) :
    cellOf (effAddr base j) ≠ cellOf (effAddr base k) := fun h => ne (cellOf_effAddr_inj hj hk h)

theorem memRead_memWrite_same (s : State) (a : Word) (v : Byte) (hm : s.mem.wf = true) :
    (s.memWrite a v).memRead a = v := by
  rw [memRead_memWrite s a a v hm, if_pos rfl]

/-- A store at one offset leaves the byte at another offset alone, also across the top of memory. -/
theorem memRead_memWrite_effAddr_ne (s : State) (base : Word) {j k : Nat} (v : Byte) (hj : j < 4096) (hk : k < 4096)
    (ne : j ≠ k) : (s.memWrite (effAddr base k) v).memRead (effAddr base j) = s.memRead (effAddr base j) :=
  memRead_memWrite_other s v (cellOf_effAddr_ne base hj hk ne)

theorem KeepsBytesOutside.trans {base : Word} {n : Nat} {s t u : State} (a : KeepsBytesOutside base n s t)
    (b : KeepsBytesOutside base n t u) : KeepsBytesOutside base n s u :=
  fun c outside => (b c outside).trans (a c outside)

theorem keepsBytesOutside_memWrite (s : State) (base : Word) {k n : Nat} (v : Byte) (hk : k < n) :
    KeepsBytesOutside base n s (s.memWrite (effAddr base k) v) :=
  fun _ outside => memRead_memWrite_other s v (outside k hk)

/-! ## FX33 (42_index_memory.md R175) -/

/-- Each digit of a byte fits a byte, so storing it loses nothing. -/
theorem bcdDigits_toNat (b : Byte) :
    (bcdDigits b).1.toNat = b.toNat / 100 ∧ (bcdDigits b).2.1.toNat = b.toNat / 10 % 10 ∧
      (bcdDigits b).2.2.toNat = b.toNat % 10 := by
  have := b.isLt
  simp only [bcdDigits, BitVec.toNat_ofNat]
  omega

/-- Three bytes stored one after the other lie in three cells, so the later stores do not spoil the earlier ones. -/
theorem memRead_three_memWrites (s : State) (base : Word) (b₀ b₁ b₂ : Byte) (hm : s.mem.wf = true) {t : State}
    (ht : t = ((s.memWrite (effAddr base 0) b₀).memWrite (effAddr base 1) b₁).memWrite (effAddr base 2) b₂) :
    t.memRead (effAddr base 0) = b₀ ∧ t.memRead (effAddr base 1) = b₁ ∧ t.memRead (effAddr base 2) = b₂ := by
  subst ht
  have wf₀ := wf_memWrite s (effAddr base 0) b₀ hm
  have wf₁ := wf_memWrite _ (effAddr base 1) b₁ wf₀
  refine ⟨?first, ?second, memRead_memWrite_same _ _ b₂ wf₁⟩
  case first =>
    rw [memRead_memWrite_effAddr_ne _ _ _ (by decide) (by decide) (by decide),
      memRead_memWrite_effAddr_ne _ _ _ (by decide) (by decide) (by decide), memRead_memWrite_same s _ _ hm]
  case second =>
    rw [memRead_memWrite_effAddr_ne _ _ _ (by decide) (by decide) (by decide), memRead_memWrite_same _ _ _ wf₀]

/-- Settles O23: FX33 is three stores at three different cells, each of a digit that fits a byte. -/
theorem decimalDigitsAreStored : Obligations.DecimalDigitsAreStored := by
  intro s x hm
  obtain ⟨hundreds, tens, ones⟩ := bcdDigits_toNat (s.readV x)
  obtain ⟨first, second, third⟩ := memRead_three_memWrites s s.ireg _ _ _ hm rfl
  refine ⟨_, rfl, (congrArg _ first).trans hundreds, (congrArg _ second).trans tens, (congrArg _ third).trans ones,
    ?bytes, ?parts⟩
  case bytes =>
    exact ((keepsBytesOutside_memWrite s _ _ (by decide)).trans (keepsBytesOutside_memWrite _ _ _ (by decide))).trans
      (keepsBytesOutside_memWrite _ _ _ (by decide))
  case parts => exact ((keeps_memWrite_memWrite s _ _ _ _).trans (keeps_memWrite _ _ _)).mono (by simp)

/-- Settles O9: FX33 leaves PC alone, and with `I` = PC the first two digits lie where the fetch reads. -/
theorem nextFetchSeesAStore : Obligations.NextFetchSeesAStore := by
  intro s x hm hI
  obtain ⟨t, run, hundreds, tens, -, -, frame⟩ := decimalDigitsAreStored s x hm
  have pc : t.pc = s.ireg := (frame .pc (by decide)).trans hI.symm
  have high : effAddr s.ireg 0 = s.ireg := BitVec.add_zero _
  have low : effAddr s.ireg 1 = s.ireg + 1 := rfl
  rw [high] at hundreds
  rw [low] at tens
  refine ⟨t, run, ?_⟩
  rw [State.fetchWord, opcodeOf_toNat, pc, hundreds, tens, Nat.mul_comm]

/-! ## FX55 (42_index_memory.md R174, R176) -/

theorem incrI_ireg_toNat (s : State) (base : Word) (x : RegIdx) :
    (s.incrI base x).ireg.toNat =
      if s.fx55IncrI = true then (base.toNat + x.val + 1) % 65536 else s.ireg.toNat := by
  rw [incrI_eq, writeI_ireg, apply_ite BitVec.toNat, effAddr_toNat, Nat.add_assoc]

@[simp] theorem incrI_v (s : State) (base : Word) (x : RegIdx) : (s.incrI base x).v = s.v := by
  rw [incrI_eq, writeI_v]

@[simp] theorem incrI_mem (s : State) (base : Word) (x : RegIdx) : (s.incrI base x).mem = s.mem := by
  rw [incrI_eq, writeI_mem]

@[simp] theorem incrI_fb (s : State) (base : Word) (x : RegIdx) : (s.incrI base x).fb = s.fb := by
  rw [incrI_eq, writeI_fb]

@[simp] theorem incrI_memRead (s : State) (base a : Word) (x : RegIdx) :
    (s.incrI base x).memRead a = s.memRead a := by
  rw [incrI_eq, writeI_memRead]

/-- FX55's stores leave every byte outside the cells of the X + 1 addresses alone. -/
theorem keepsBytesOutside_storeRegs (base : Word) (x : RegIdx) (s : State) :
    KeepsBytesOutside base (x.val + 1) s (State.storeRegs base (regsUpTo x) s) :=
  fun _ outside => storeRegs_outside base _ s fun k hk => outside k.val (Nat.lt_succ_of_le (mem_regsUpTo.mp hk))

/-- Settles O24: the stores of FX55 write memory alone and the increment writes `I` alone, by the strap. -/
theorem registersAreStored : Obligations.RegistersAreStored := by
  intro s x hm
  refine ⟨_, rfl, ?stored, ?bytes, ?index, (keeps_storeRegs _ _ s).trans (keeps_incrI _ _ _)⟩
  case stored =>
    intro k hk
    rw [incrI_memRead, storeRegs_inside _ _ s hm (mem_regsUpTo.mpr hk)]
  case bytes =>
    intro a outside
    rw [incrI_memRead, keepsBytesOutside_storeRegs _ x s a outside]
  case index =>
    rw [incrI_ireg_toNat, storeRegs_eq]

/-! ## Bits 15:12 of `I` (42_index_memory.md R173) -/

/-- Two bases that agree modulo 4096 reach the same cell at every offset. -/
theorem cellOf_effAddr_congr {a b : Word} (h : a.toNat % 4096 = b.toNat % 4096) (k : Nat) :
    cellOf (effAddr a k) = cellOf (effAddr b k) := by
  rw [cellOf_effAddr, cellOf_effAddr, Nat.add_mod, h, ← Nat.add_mod]

theorem memRead_effAddr_congr {a b : Word} (h : a.toNat % 4096 = b.toNat % 4096) (s : State) (k : Nat) :
    s.memRead (effAddr a k) = s.memRead (effAddr b k) := congrArg s.mem.read (cellOf_effAddr_congr h k)

theorem memWrite_effAddr_congr {a b : Word} (h : a.toNat % 4096 = b.toNat % 4096) (s : State) (k : Nat) (v : Byte) :
    s.memWrite (effAddr a k) v = s.memWrite (effAddr b k) v := by
  rw [State.memWrite, State.memWrite, cellOf_effAddr_congr h]

theorem storeRegs_congr {a b : Word} (h : a.toNat % 4096 = b.toNat % 4096) (ks : List RegIdx) (s : State) :
    State.storeRegs a ks s = State.storeRegs b ks s := by
  induction ks generalizing s with
  | nil => rfl
  | cons k ks ih => rw [State.storeRegs, State.storeRegs, memWrite_effAddr_congr h, ih]

theorem loadRegs_congr {a b : Word} (h : a.toNat % 4096 = b.toNat % 4096) (ks : List RegIdx) (s : State) :
    State.loadRegs a ks s = State.loadRegs b ks s := by
  induction ks generalizing s with
  | nil => rfl
  | cons k ks ih => rw [State.loadRegs, State.loadRegs, memRead_effAddr_congr h, ih]

/-- The stores of FX55 take their addresses from `base`, not from the `I` of the state. -/
theorem storeRegs_writeI (base w : Word) (ks : List RegIdx) (s : State) :
    State.storeRegs base ks (s.writeI w) = (State.storeRegs base ks s).writeI w := by
  induction ks generalizing s with
  | nil => rfl
  | cons k ks ih => exact ih (s.memWrite (effAddr base k.val) (s.readV k))

theorem loadRegs_writeI (base w : Word) (ks : List RegIdx) (s : State) :
    State.loadRegs base ks (s.writeI w) = (State.loadRegs base ks s).writeI w := by
  induction ks generalizing s with
  | nil => rfl
  | cons k ks ih => exact ih (s.writeV k (s.memRead (effAddr base k.val)))

theorem drawSprite_writeI {w : Word} {s : State} (h : w.toNat % 4096 = s.ireg.toNat % 4096) (x y : RegIdx)
    (n : Fin 16) : (s.writeI w).drawSprite x y n = s.drawSprite x y n := by
  have sprite : (fun row => s.memRead (effAddr w row)) = fun row => s.memRead (effAddr s.ireg row) :=
    funext (memRead_effAddr_congr h s)
  simp only [State.drawSprite, writeI_ireg, writeI_memRead, writeI_readV, writeI_fb, sprite]

/-- Settles O26: each of the four reaches memory through the cells of `I` + k alone, and these are the same in both
states. -/
theorem highBitsOfIndexDoNotReachMemory : Obligations.HighBitsOfIndexDoNotReachMemory := by
  intro s w i h hi
  rcases hi with ⟨x, y, n, rfl⟩ | ⟨x, rfl | rfl | rfl⟩
  case inl =>
    refine ⟨_, _, rfl, rfl, ?_⟩
    simp only [drawSprite_writeI h, writeV_v, writeV_mem, writeV_fb, setFB_v, setFB_mem, setFB_fb, writeI_v,
      writeI_mem, and_self]
  case inr.inl =>
    refine ⟨_, _, rfl, rfl, rfl, ?mem, rfl⟩
    simp only [memWrite_mem, writeI_mem, writeI_ireg, writeI_readV, cellOf_effAddr_congr h]
  case inr.inr.inl =>
    refine ⟨_, _, rfl, rfl, ?_⟩
    simp only [writeI_ireg, storeRegs_writeI, storeRegs_congr h, incrI_v, incrI_mem, incrI_fb, writeI_v, writeI_mem,
      writeI_fb, and_self]
  case inr.inr.inr =>
    refine ⟨_, _, rfl, rfl, ?_⟩
    simp only [writeI_ireg, loadRegs_writeI, loadRegs_congr h, incrI_v, incrI_mem, incrI_fb, writeI_v, writeI_mem,
      writeI_fb, and_self]

end Sys2Proof.Machine

namespace Sys2Proof.Machine

/-! ## The display (43_display.md R191, R194) -/

/-- Settles O27: 00E0 is one write of the framebuffer, of the screen whose pixels are all off. -/
theorem clearTurnsEveryPixelOff : Obligations.ClearTurnsEveryPixelOff :=
  fun s => ⟨s.setFB blankScreen, rfl, pixel_blankScreen, keeps_setFB s blankScreen⟩

end Sys2Proof.Machine

namespace Sys2Proof.Machine

/-! ## What no program sees: `ST` and the diagnostics (44_keypad_timers.md R206, 60_exceptions.md section 1) -/

/-- The state with other contents in the two parts `SameProgramView` does not compare. -/
def State.withUnseen (s : State) (st : Byte) (diags : List Diag) : State := { s with st := st, diags := diags }

theorem SameProgramView.exists_withUnseen {s u : State} (h : SameProgramView s u) :
    ∃ b ds, u = s.withUnseen b ds := ⟨u.st, u.diags, h⟩

/-- Both complete, in states that differ only in what no program sees. -/
def SameNext (r r' : Result) : Prop := ∃ t w, r = .next t ∧ r' = .next w ∧ SameProgramView t w

theorem sameNext_of_eq {t w : State} {b : Byte} {ds : List Diag} (h : w = t.withUnseen b ds) :
    SameNext (.next t) (.next w) := by
  subst h
  exact ⟨t, _, rfl, rfl, rfl⟩

theorem skipIf_withUnseen (s : State) (b : Byte) (ds : List Diag) (c : Bool) :
    (s.withUnseen b ds).skipIf c = (s.skipIf c).withUnseen b ds := by
  rw [skipIf_eq, skipIf_eq]
  rfl

theorem incrI_withUnseen (s : State) (b : Byte) (ds : List Diag) (base : Word) (x : RegIdx) :
    (s.withUnseen b ds).incrI base x = (s.incrI base x).withUnseen b ds := by
  rw [incrI_eq, incrI_eq]
  rfl

theorem awaitKey_withUnseen (s : State) (b : Byte) (ds : List Diag) (x : RegIdx) (key : Option Key) :
    (s.withUnseen b ds).awaitKey x key = (s.awaitKey x key).withUnseen b ds := by
  cases key with
  | none => rfl
  | some k => rfl

theorem storeRegs_withUnseen (base : Word) (ks : List RegIdx) (s : State) (b : Byte) (ds : List Diag) :
    State.storeRegs base ks (s.withUnseen b ds) = (State.storeRegs base ks s).withUnseen b ds := by
  induction ks generalizing s with
  | nil => rfl
  | cons k ks ih => exact ih (s.memWrite (effAddr base k.val) (s.readV k))

theorem loadRegs_withUnseen (base : Word) (ks : List RegIdx) (s : State) (b : Byte) (ds : List Diag) :
    State.loadRegs base ks (s.withUnseen b ds) = (State.loadRegs base ks s).withUnseen b ds := by
  induction ks generalizing s with
  | nil => rfl
  | cons k ks ih => exact ih (s.writeV k (s.memRead (effAddr base k.val)))

/-- A full stack makes the push a diagnostic, of the same event in both logs. -/
theorem push_withUnseen (s : State) (b : Byte) (ds : List Diag) (w : Word) :
    ∃ ds', (s.withUnseen b ds).push w = (s.push w).withUnseen b ds' := by
  rcases sp_room s with full | ⟨k, room⟩
  · rw [push_of_full s w full, push_of_full (s.withUnseen b ds) w full]
    exact ⟨ds ++ [⟨.stackOverflow, w⟩], rfl⟩
  · rw [push_of_room s w room, push_of_room (s.withUnseen b ds) w room]
    exact ⟨ds, rfl⟩

/-- An empty stack makes the pop a diagnostic, of the same event in both logs. -/
theorem popState_withUnseen (s : State) (b : Byte) (ds : List Diag) :
    ∃ ds', (s.withUnseen b ds).popState = s.popState.withUnseen b ds' := by
  rcases sp_cases s with empty | ⟨k, entry⟩
  · rw [(pop_of_empty s empty).2, (pop_of_empty (s.withUnseen b ds) empty).2]
    exact ⟨ds ++ [⟨.stackUnderflow, 0⟩], rfl⟩
  · rw [(pop_of_entry s entry).2, (pop_of_entry (s.withUnseen b ds) entry).2]
    exact ⟨ds, rfl⟩

/-- No instruction reads `ST` or the diagnostics: most keep both, FX18 sets `ST` alike in both states, and a call or a
return may add the same diagnostic to both logs. -/
theorem exec_withUnseen (i : Instr) (s : State) (b : Byte) (ds : List Diag) :
    SameNext (exec i s) (exec i (s.withUnseen b ds)) := by
  cases i with
  | op00E0 | op1NNN | op6XNN | op7XNN | op8XY0 | op8XY1 | op8XY2 | op8XY3 | op8XY4 | op8XY5 | op8XY6 | op8XY7 | op8XYE
  | opANNN | opBNNN | opCXNN | opDXYN | opFX07 | opFX15 | opFX1E | opFX29 | opFX33 =>
    exact sameNext_of_eq (b := b) (ds := ds) rfl
  | opFX18 x => exact sameNext_of_eq (b := s.readV x) (ds := ds) rfl
  | op3XNN | op4XNN | op5XY0 | op9XY0 | opEX9E | opEXA1 => exact sameNext_of_eq (skipIf_withUnseen s b ds _)
  | opFX0A x => exact sameNext_of_eq (awaitKey_withUnseen s b ds x _)
  | op2NNN nnn =>
    obtain ⟨ds', pushed⟩ := push_withUnseen s b ds s.pc
    exact sameNext_of_eq (b := b) (ds := ds') (congrArg (State.writePC · (zextAddr nnn)) pushed)
  | op00EE =>
    obtain ⟨ds', popped⟩ := popState_withUnseen s b ds
    exact sameNext_of_eq (b := b) (ds := ds') (congrArg (State.writePC · s.popValue) popped)
  | opFX55 x =>
    refine sameNext_of_eq (Eq.trans ?_ (incrI_withUnseen _ b ds s.ireg x))
    exact congrArg (State.incrI · s.ireg x) (storeRegs_withUnseen _ _ s b ds)
  | opFX65 x =>
    refine sameNext_of_eq (Eq.trans ?_ (incrI_withUnseen _ b ds s.ireg x))
    exact congrArg (State.incrI · s.ireg x) (loadRegs_withUnseen _ _ s b ds)

theorem execDecoded_withUnseen (d : Decoded) (s : State) (b : Byte) (ds : List Diag) :
    SameNext (execDecoded d s) (execDecoded d (s.withUnseen b ds)) := by
  cases d with
  | instruction i => exact exec_withUnseen i s b ds
  | unrecognized op => exact sameNext_of_eq (b := b) (ds := ds ++ [⟨.unrecognizedOpcode, op⟩]) rfl

theorem tickIfDue_withUnseen (s : State) (b : Byte) (ds : List Diag) :
    (s.withUnseen b ds).tickIfDue = s.tickIfDue.withUnseen (if s.env.tickDue then countDown b else b) ds := by
  rw [tickIfDue_eq, tickIfDue_eq]
  rfl

/-- Rendering and ticking keep the two results alike: the tick moves `DT` by `DT` alone. -/
theorem afterCycle_sameNext {r r' : Result} (h : SameNext r r') : SameNext (afterCycle r) (afterCycle r') := by
  obtain ⟨t, w, rfl, rfl, same⟩ := h
  obtain ⟨b, ds, rfl⟩ := same.exists_withUnseen
  exact sameNext_of_eq (tickIfDue_withUnseen t b ds)

/-- Whether an iteration runs, what it polls and the word it fetches do not depend on `ST` or the diagnostics. -/
theorem step_withUnseen (s : State) (b : Byte) (ds : List Diag) :
    SameNext (step s) (step (s.withUnseen b ds)) := by
  rcases run_cases s with stopped | ⟨runs, quit⟩ | will
  · rw [step_stopped stopped, step_stopped (s := s.withUnseen b ds) stopped]
    exact sameNext_of_eq rfl
  · rw [step_quit runs quit, step_quit (s := s.withUnseen b ds) runs quit]
    exact sameNext_of_eq (b := b) (ds := ds) rfl
  · rw [step_running will, step_running (s := s.withUnseen b ds) will]
    exact afterCycle_sameNext (execDecoded_withUnseen (decode s.fetchWord) s.fetched b ds)

theorem iterations_succ_of_step {s t : State} (n : Nat) (one : step s = .next t) :
    iterations (n + 1) s = iterations n t := by
  rw [iterations, one]

/-- Settles O49, by induction on the number of iterations: one step keeps two such states alike. -/
theorem soundTimerAndDiagnosticsAreUnobservable : Obligations.SoundTimerAndDiagnosticsAreUnobservable := by
  intro n
  induction n with
  | zero => exact fun s u same => ⟨s, u, rfl, rfl, same⟩
  | succ n ih =>
    intro s u same
    obtain ⟨b, ds, rfl⟩ := same.exists_withUnseen
    obtain ⟨t, w, one, one', same'⟩ := step_withUnseen s b ds
    rw [iterations_succ_of_step n one, iterations_succ_of_step n one']
    exact ih t w same'

end Sys2Proof.Machine

namespace Sys2Proof.Machine

/-! ## FX07, FX0A, FX15 and FX18 (44_keypad_timers.md R203 to R206) -/

theorem key_toNat (k : Key) : (BitVec.ofNat 8 k.val).toNat = k.val := by
  rw [BitVec.toNat_ofNat]
  omega

theorem exec_opFX0A (s : State) (x : RegIdx) : exec (.opFX0A x) s = .next (s.awaitKey x s.env.keyPressed) := rfl

/-- Settles O31: with a reported key FX0A is one write of V[X], with none one write of `PC`. -/
theorem keyWait : Obligations.KeyWait := by
  intro s x
  refine ⟨_, exec_opFX0A s x, ?pressed, ?waits⟩
  case pressed =>
    intro k reported
    rw [reported, State.awaitKey, readV_writeV_same]
    exact ⟨key_toNat k, frames_writeV s x _⟩
  case waits =>
    intro noKey
    rw [noKey, State.awaitKey]
    exact ⟨sub_two_toNat s.pc, keeps_writePC s _⟩

/-- Settles O33: each of the three is one write, of V[X], `DT` or `ST`. -/
theorem timerAccess : Obligations.TimerAccess := by
  intro s x
  refine ⟨?read, ?setDelay, ?setSound⟩
  case read => exact ⟨_, rfl, readV_writeV_same s x s.dt, frames_writeV s x s.dt⟩
  case setDelay => exact ⟨_, rfl, rfl, keeps_writeDT s _⟩
  case setSound => exact ⟨_, rfl, rfl, keeps_writeST s _⟩

/-- Waiting takes the fetch's advance back, so nothing but the poll is left of the cycle. -/
theorem fetched_awaitKey_none (s : State) (x : RegIdx) : s.fetched.awaitKey x none = s.poll := by
  calc s.fetched.awaitKey x none = s.poll.writePC (s.pc + 2 - 2) := rfl
    _ = s.poll.writePC s.pc := by rw [add_sub_cancel_right]
    _ = s.poll := rfl

/-- Settles O32: what is left of the iteration is its poll and its tick. -/
theorem waitingIterationMovesOnlyTheTimers : Obligations.WaitingIterationMovesOnlyTheTimers := by
  intro s x will noKey dec
  have waits : exec (.opFX0A x) s.fetched = .next s.poll := by
    have noKey' : s.fetched.env.keyPressed = none := noKey
    rw [exec_opFX0A, noKey', fetched_awaitKey_none]
  exact ⟨_, step_of_exec will dec waits, ((keeps_poll s).trans (keeps_tickIfDue s.poll)).mono (by simp)⟩

/-! ## The timers over one iteration (60_exceptions.md R241, R242) -/

theorem mem_mayChange_dt {i : Instr} : Part.dt ∈ mayChange i ↔ ∃ x, i = .opFX15 x := by
  cases i <;> simp [mayChange]

theorem mem_mayChange_st {i : Instr} : Part.st ∈ mayChange i ↔ ∃ x, i = .opFX18 x := by
  cases i <;> simp [mayChange]

/-- The execute step completes; it moves `DT` by FX15 alone and `ST` by FX18 alone, and keeps the record polled. -/
theorem execDecoded_timers (d : Decoded) (s : State) : ∃ t, execDecoded d s = .next t ∧ t.env = s.env ∧
    ((∀ x, d ≠ .instruction (.opFX15 x)) → t.dt = s.dt) ∧
    ((∀ x, d ≠ .instruction (.opFX18 x)) → t.st = s.st) ∧
    (∀ x, d = .instruction (.opFX15 x) → t.dt = s.readV x) ∧
    (∀ x, d = .instruction (.opFX18 x) → t.st = s.readV x) := by
  cases d with
  | unrecognized op => exact ⟨_, rfl, rfl, fun _ => rfl, fun _ => rfl, nofun, nofun⟩
  | instruction i =>
    obtain ⟨t, run, frame⟩ := onlyTheListedPartsChange i s
    obtain ⟨-, -, -, env, -, -⟩ := exec_environment run
    refine ⟨t, run, env, ?keepsDelay, ?keepsSound, ?setsDelay, ?setsSound⟩
    case keepsDelay =>
      intro other
      refine frame .dt fun writes => ?_
      obtain ⟨x, rfl⟩ := mem_mayChange_dt.mp writes
      exact other x rfl
    case keepsSound =>
      intro other
      refine frame .st fun writes => ?_
      obtain ⟨x, rfl⟩ := mem_mayChange_st.mp writes
      exact other x rfl
    case setsDelay =>
      rintro x ⟨⟩
      cases run
      rfl
    case setsSound =>
      rintro x ⟨⟩
      cases run
      rfl

theorem tickIfDue_dt_toNat (s : State) :
    s.tickIfDue.dt.toNat = s.dt.toNat - if s.env.tickDue then 1 else 0 := by
  rw [tickIfDue_eq, writeST_dt, writeDT_dt]
  split
  · exact countDown_toNat s.dt
  · rfl

theorem tickIfDue_st_toNat (s : State) :
    s.tickIfDue.st.toNat = s.st.toNat - if s.env.tickDue then 1 else 0 := by
  rw [tickIfDue_eq, writeST_st]
  split
  · exact countDown_toNat s.st
  · rfl

/-- An iteration that runs ticks by the record it polled. -/
theorem ticks_of_willRun {s : State} (will : s.willRun = true) :
    s.ticks = if s.nextEnv.tickDue then 1 else 0 := by
  rw [State.ticks, will, Bool.true_and]

/-- Settles O47: the execute step leaves each timer alone or sets it from V[X], and then comes the tick of the record
polled. -/
theorem timersMoveOnlyByTheTick : Obligations.TimersMoveOnlyByTheTick := by
  intro s will
  obtain ⟨t, run, env, keepsDelay, keepsSound, setsDelay, setsSound⟩ :=
    execDecoded_timers (decode s.fetchWord) s.fetched
  have one : step s = .next t.tickIfDue := by
    rw [step_running will, run]
    rfl
  have polled : t.env = s.nextEnv := env
  have delay {b : Byte} (before : t.dt = b) : t.tickIfDue.dt.toNat = b.toNat - s.ticks := by
    rw [tickIfDue_dt_toNat, ticks_of_willRun will, polled, before]
  have sound {b : Byte} (before : t.st = b) : t.tickIfDue.st.toNat = b.toNat - s.ticks := by
    rw [tickIfDue_st_toNat, ticks_of_willRun will, polled, before]
  exact ⟨_, one, fun other => delay (keepsDelay other), fun other => sound (keepsSound other),
    fun x sets => delay (setsDelay x sets), fun x sets => sound (setsSound x sets)⟩

end Sys2Proof.Machine

namespace Sys2Proof.Machine

/-! ## Runs: they complete, and `DT` falls by their ticks (60_exceptions.md R230, R241, R243) -/

/-- An iteration that does not run does not tick. -/
theorem ticks_of_not_willRun {s : State} (idle : s.willRun = false) : s.ticks = 0 := by
  rw [State.ticks, idle]
  rfl

theorem willRun_of_stopped {s : State} (stopped : s.run = false) : s.willRun = false := by
  rw [State.willRun, stopped, Bool.false_and]

theorem willRun_of_quit {s : State} (quit : s.nextEnv.quit = true) : s.willRun = false := by
  rw [State.willRun, quit, Bool.not_true, Bool.and_false]

/-- One iteration that executes no FX15, in each of the three ways an iteration can go: a stopped or a stopping one
neither ticks nor writes `DT`, a running one moves `DT` by the tick alone. -/
theorem step_dt_of_not_setsDelay {s u : State} (quiet : ¬ s.setsDelay) (one : step s = .next u) :
    u.dt.toNat = s.dt.toNat - s.ticks := by
  rcases run_cases s with stopped | ⟨runs, quit⟩ | will
  · rw [step_stopped stopped] at one
    cases one
    rw [ticks_of_not_willRun (willRun_of_stopped stopped), Nat.sub_zero]
  · rw [step_quit runs quit] at one
    cases one
    rw [ticks_of_not_willRun (willRun_of_quit quit), Nat.sub_zero]
    rfl
  · obtain ⟨t, one', delay, -⟩ := timersMoveOnlyByTheTick s will
    rw [one'] at one
    cases one
    exact delay fun x sets => quiet ⟨x, sets⟩

/-- Settles O48, by induction on the run: the first iteration takes its own tick from `DT`, the rest theirs. -/
theorem delayTimerCountsTicksNotInstructions : Obligations.DelayTimerCountsTicksNotInstructions := by
  intro s t k run
  induction run with
  | nil s => rfl
  | @cons s u t k quiet one _ ih =>
    calc t.dt.toNat = u.dt.toNat - k := ih
      _ = s.dt.toNat - s.ticks - k := by rw [step_dt_of_not_setsDelay quiet one]
      _ = s.dt.toNat - (s.ticks + k) := Nat.sub_sub _ _ _

/-- No iteration ends in a fault or a refusal. -/
theorem step_completes (s : State) : ∃ t, step s = .next t := by
  rcases run_cases s with stopped | ⟨runs, quit⟩ | will
  · exact ⟨s, step_stopped stopped⟩
  · exact ⟨s.poll.stop, step_quit runs quit⟩
  · obtain ⟨t, one, -⟩ := timersMoveOnlyByTheTick s will
    exact ⟨t, one⟩

/-- Settles O42, by induction on the number of iterations. -/
theorem everyRunCompletes : Obligations.EveryRunCompletes := by
  intro n
  induction n with
  | zero => exact fun s => ⟨s, rfl⟩
  | succ n ih =>
    intro s
    obtain ⟨u, one⟩ := step_completes s
    rw [iterations_succ_of_step n one]
    exact ih u

end Sys2Proof.Machine

namespace Sys2Proof.Machine

/-! ## Who reads the input record (20_memory.md R63, 60_exceptions.md R234) -/

/-- The state under another input record. -/
def State.withEnv (s : State) (e : Env) : State := { s with env := e }

theorem skipIf_withEnv (s : State) (e : Env) (c : Bool) : (s.withEnv e).skipIf c = (s.skipIf c).withEnv e := by
  rw [skipIf_eq, skipIf_eq]
  rfl

theorem incrI_withEnv (s : State) (e : Env) (base : Word) (x : RegIdx) :
    (s.withEnv e).incrI base x = (s.incrI base x).withEnv e := by
  rw [incrI_eq, incrI_eq]
  rfl

theorem storeRegs_withEnv (base : Word) (ks : List RegIdx) (s : State) (e : Env) :
    State.storeRegs base ks (s.withEnv e) = (State.storeRegs base ks s).withEnv e := by
  induction ks generalizing s with
  | nil => rfl
  | cons k ks ih => exact ih (s.memWrite (effAddr base k.val) (s.readV k))

theorem loadRegs_withEnv (base : Word) (ks : List RegIdx) (s : State) (e : Env) :
    State.loadRegs base ks (s.withEnv e) = (State.loadRegs base ks s).withEnv e := by
  induction ks generalizing s with
  | nil => rfl
  | cons k ks ih => exact ih (s.writeV k (s.memRead (effAddr base k.val)))

theorem push_withEnv (s : State) (e : Env) (w : Word) : (s.withEnv e).push w = (s.push w).withEnv e := by
  rcases sp_room s with full | ⟨k, room⟩
  · rw [push_of_full s w full, push_of_full (s.withEnv e) w full]
    rfl
  · rw [push_of_room s w room, push_of_room (s.withEnv e) w room]
    rfl

theorem popState_withEnv (s : State) (e : Env) : (s.withEnv e).popState = s.popState.withEnv e := by
  rcases sp_cases s with empty | ⟨k, entry⟩
  · rw [(pop_of_empty s empty).2, (pop_of_empty (s.withEnv e) empty).2]
    rfl
  · rw [(pop_of_entry s entry).2, (pop_of_entry (s.withEnv e) entry).2]
    rfl

/-- Settles O37: the operations an instruction is composed of carry the record along unread, but for the random byte of
CXNN and the keypad answers of EX9E, EXA1 and FX0A. -/
theorem inputsReachOnlyTheirInstructions : Obligations.InputsReachOnlyTheirInstructions := by
  intro i s e unread
  cases i with
  | opCXNN | opEX9E | opEXA1 | opFX0A => cases unread
  | op00E0 | op1NNN | op6XNN | op7XNN | op8XY0 | op8XY1 | op8XY2 | op8XY3 | op8XY4 | op8XY5 | op8XY6 | op8XY7 | op8XYE
  | opANNN | opBNNN | opDXYN | opFX07 | opFX15 | opFX18 | opFX1E | opFX29 | opFX33 => exact ⟨_, rfl, rfl⟩
  | op3XNN | op4XNN | op5XY0 | op9XY0 => exact ⟨_, rfl, congrArg Host.Outcome.next (skipIf_withEnv s e _)⟩
  | op2NNN nnn =>
    refine ⟨_, rfl, congrArg Host.Outcome.next ?_⟩
    exact congrArg (State.writePC · (zextAddr nnn)) (push_withEnv s e s.pc)
  | op00EE =>
    refine ⟨_, rfl, congrArg Host.Outcome.next ?_⟩
    exact congrArg (State.writePC · s.popValue) (popState_withEnv s e)
  | opFX55 x =>
    refine ⟨_, rfl, congrArg Host.Outcome.next (Eq.trans ?_ (incrI_withEnv _ e s.ireg x))⟩
    exact congrArg (State.incrI · s.ireg x) (storeRegs_withEnv _ _ s e)
  | opFX65 x =>
    refine ⟨_, rfl, congrArg Host.Outcome.next (Eq.trans ?_ (incrI_withEnv _ e s.ireg x))⟩
    exact congrArg (State.incrI · s.ireg x) (loadRegs_withEnv _ _ s e)

end Sys2Proof.Machine

namespace Sys2Proof.Machine

/-! ## The frame of an instruction at hand (20_memory.md R62) -/

theorem exec_frame {i : Instr} {s t : State} (run : exec i s = .next t) : KeepsAllBut (mayChange i) s t := by
  obtain ⟨t', run', frame⟩ := onlyTheListedPartsChange i s
  cases run'.symm.trans run
  exact frame

theorem mem_mayChange_diags {i : Instr} : Part.diags ∈ mayChange i ↔ i = .op00EE ∨ ∃ nnn, i = .op2NNN nnn := by
  cases i <;> simp [mayChange]

/-! ## The stack's two anomalies (10_state.md R33, R34) -/

theorem exec_call_of_full (s : State) (nnn : Addr) (full : s.sp.val = 16) :
    exec (.op2NNN nnn) s = .next ((s.diag .stackOverflow s.pc).writePC (zextAddr nnn)) := by
  rw [← push_of_full s s.pc full]
  rfl

theorem exec_return_of_empty (s : State) (empty : s.sp.val = 0) :
    exec .op00EE s = .next ((s.diag .stackUnderflow 0).writePC 0) := by
  obtain ⟨value, state⟩ := pop_of_empty s empty
  rw [← state, ← value]
  rfl

/-! ## The diagnostics of one iteration (60_exceptions.md R233) -/

theorem anomaly_of_unrecognized {s : State} {op : Word} (dec : decode s.fetchWord = .unrecognized op) :
    s.anomaly = [⟨.unrecognizedOpcode, op⟩] := by
  rw [State.anomaly, dec]

theorem anomaly_of_call {s : State} {nnn : Addr} (dec : decode s.fetchWord = .instruction (.op2NNN nnn)) :
    s.anomaly = if s.sp.val = 16 then [⟨.stackOverflow, s.pc + 2⟩] else [] := by
  rw [State.anomaly, dec]

theorem anomaly_of_return {s : State} (dec : decode s.fetchWord = .instruction .op00EE) :
    s.anomaly = if s.sp.val = 0 then [⟨.stackUnderflow, 0⟩] else [] := by
  rw [State.anomaly, dec]

/-- An instruction that may not write the log is no anomaly. -/
theorem anomaly_of_quiet {s : State} {i : Instr} (dec : decode s.fetchWord = .instruction i)
    (quiet : Part.diags ∉ mayChange i) : s.anomaly = [] := by
  rw [mem_mayChange_diags, not_or, not_exists] at quiet
  obtain ⟨noReturn, noCall⟩ := quiet
  rw [State.anomaly, dec]
  cases i with
  | op00EE => exact absurd rfl noReturn
  | op2NNN nnn => exact absurd rfl (noCall nnn)
  | _ => rfl

/-- An iteration meets no anomaly or one, and this one is in the table. -/
theorem anomaly_cases (s : State) : s.anomaly = [] ∨ ∃ d, s.anomaly = [d] ∧ d.legal = true := by
  cases dec : decode s.fetchWord with
  | unrecognized op =>
    have own : decode op = .unrecognized op := (decode_unrecognized dec).symm ▸ dec
    exact .inr ⟨_, anomaly_of_unrecognized dec, decide_eq_true own⟩
  | instruction i =>
    by_cases writes : Part.diags ∈ mayChange i
    · rcases mem_mayChange_diags.mp writes with rfl | ⟨nnn, rfl⟩
      · rw [anomaly_of_return dec]
        split
        · exact .inr ⟨_, rfl, rfl⟩
        · exact .inl rfl
      · rw [anomaly_of_call dec]
        split
        · exact .inr ⟨_, rfl, rfl⟩
        · exact .inl rfl
    · exact .inl (anomaly_of_quiet dec writes)

theorem legal_of_mem_anomaly {s : State} {d : Diag} (mem : d ∈ s.anomaly) : d.legal = true := by
  rcases anomaly_cases s with none | ⟨e, one, legal⟩
  · rw [none] at mem
    cases mem
  · rw [one, List.mem_singleton] at mem
    exact mem ▸ legal

/-- The execute step appends to the log the anomaly of the word fetched: the stack it looks at is still the one before
the iteration, and the address a full stack drops is the advanced `PC`. -/
theorem execDecoded_diags {s t : State} (run : execDecoded (decode s.fetchWord) s.fetched = .next t) :
    t.diags = s.diags ++ s.anomaly := by
  cases dec : decode s.fetchWord with
  | unrecognized op =>
    rw [dec] at run
    cases run
    rw [anomaly_of_unrecognized dec]
    rfl
  | instruction i =>
    have run' : exec i s.fetched = .next t := by rw [dec] at run; exact run
    by_cases writes : Part.diags ∈ mayChange i
    · rcases mem_mayChange_diags.mp writes with rfl | ⟨nnn, rfl⟩
      · rcases sp_cases s with empty | ⟨k, entry⟩
        · cases (exec_return_of_empty s.fetched empty).symm.trans run'
          rw [anomaly_of_return dec, if_pos empty]
          rfl
        · cases (exec_return_of_entry s.fetched entry).symm.trans run'
          rw [anomaly_of_return dec, if_neg (by omega), List.append_nil]
          rfl
      · rcases sp_room s with full | ⟨k, room⟩
        · cases (exec_call_of_full s.fetched nnn full).symm.trans run'
          rw [anomaly_of_call dec, if_pos full]
          rfl
        · cases (exec_call_of_room s.fetched nnn room).symm.trans run'
          rw [anomaly_of_call dec, if_neg (by omega), List.append_nil]
          rfl
    · rw [anomaly_of_quiet dec writes, List.append_nil]
      exact exec_frame run' .diags writes

/-! ## What one iteration does, case by case (60_exceptions.md R247) -/

theorem execDecoded_completes (d : Decoded) (s : State) : ∃ t, execDecoded d s = .next t := by
  obtain ⟨t, run, -⟩ := execDecoded_timers d s
  exact ⟨t, run⟩

/-- The three ways an iteration can go, with the state each leaves. -/
theorem step_cases (s : State) :
    (s.run = false ∧ step s = .next s) ∨
    (s.run = true ∧ s.nextEnv.quit = true ∧ step s = .next s.poll.stop) ∨
    (s.willRun = true ∧ ∃ t, execDecoded (decode s.fetchWord) s.fetched = .next t ∧ step s = .next t.tickIfDue) := by
  rcases run_cases s with stopped | ⟨runs, quit⟩ | will
  · exact .inl ⟨stopped, step_stopped stopped⟩
  · exact .inr (.inl ⟨runs, quit, step_quit runs quit⟩)
  · obtain ⟨t, run⟩ := execDecoded_completes (decode s.fetchWord) s.fetched
    refine .inr (.inr ⟨will, t, run, ?_⟩)
    rw [step_running will, run]
    rfl

theorem tickIfDue_diags (s : State) : s.tickIfDue.diags = s.diags := keeps_tickIfDue s .diags (by decide)

/-- Settles O46: a stopped and a stopping iteration keep the log, a running one appends its anomaly and then ticks. -/
theorem diagnosticsAreExactlyTheAnomalies : Obligations.DiagnosticsAreExactlyTheAnomalies := by
  intro s
  constructor
  · rcases anomaly_cases s with none | ⟨d, one, -⟩
    · rw [none]
      exact Nat.zero_le 1
    · rw [one]
      exact Nat.le_refl 1
  · rcases step_cases s with ⟨stopped, one⟩ | ⟨-, quit, one⟩ | ⟨will, t, run, one⟩
    · refine ⟨s, one, ?_⟩
      rw [willRun_of_stopped stopped]
      exact (List.append_nil _).symm
    · refine ⟨_, one, ?_⟩
      rw [willRun_of_quit quit]
      exact (List.append_nil _).symm
    · refine ⟨_, one, ?_⟩
      rw [if_pos will, tickIfDue_diags, execDecoded_diags run]

/-- No execute step writes RUN, a strap or the record polled, the unrecognized word's included. -/
theorem execDecoded_environment {d : Decoded} {s t : State} (run : execDecoded d s = .next t) :
    t.run = s.run ∧ t.shiftSetVY = s.shiftSetVY ∧ t.fx55IncrI = s.fx55IncrI ∧ t.env = s.env := by
  cases d with
  | unrecognized op =>
    cases run
    exact ⟨rfl, rfl, rfl, rfl⟩
  | instruction i =>
    obtain ⟨run', shift, incr, env, -, -⟩ := exec_environment (i := i) run
    exact ⟨run', shift, incr, env⟩

/-! ## The canonical form of memory over one iteration (log entry 2) -/

theorem push_mem (s : State) (w : Word) : (s.push w).mem = s.mem := by
  rcases sp_room s with full | ⟨k, room⟩
  · rw [push_of_full s w full, diag_mem]
  · rw [push_of_room s w room, setStack_mem]

theorem popState_mem (s : State) : s.popState.mem = s.mem := by
  rcases sp_cases s with empty | ⟨k, entry⟩
  · rw [(pop_of_empty s empty).2, diag_mem]
  · rw [(pop_of_entry s entry).2, setStack_mem]

theorem awaitKey_mem (s : State) (x : RegIdx) (key : Option Key) : (s.awaitKey x key).mem = s.mem := by
  cases key with
  | none => rfl
  | some k => rfl

/-- FX33 and FX55 store through the port, which keeps the canonical form; no other instruction touches the cells. -/
theorem exec_mem_wf {i : Instr} {s t : State} (wf : s.mem.wf = true) (run : exec i s = .next t) :
    t.mem.wf = true := by
  cases i with
  | opFX33 =>
    cases run
    exact wf_memWrite _ _ _ (wf_memWrite _ _ _ (wf_memWrite s _ _ wf))
  | opFX55 =>
    cases run
    rw [incrI_mem]
    exact storeRegs_wf _ _ s wf
  | opFX65 =>
    cases run
    rw [incrI_mem, loadRegs_eq]
    exact wf
  | op3XNN | op4XNN | op5XY0 | op9XY0 | opEX9E | opEXA1 =>
    cases run
    rw [skipIf_eq]
    exact wf
  | op2NNN =>
    cases run
    rw [writePC_mem, push_mem]
    exact wf
  | op00EE =>
    cases run
    rw [writePC_mem, popState_mem]
    exact wf
  | opFX0A =>
    cases run
    rw [awaitKey_mem]
    exact wf
  | op00E0 | op1NNN | op6XNN | op7XNN | op8XY0 | op8XY1 | op8XY2 | op8XY3 | op8XY4 | op8XY5 | op8XY6 | op8XY7 | op8XYE
  | opANNN | opBNNN | opCXNN | opDXYN | opFX07 | opFX15 | opFX18 | opFX1E | opFX29 =>
    cases run
    exact wf

theorem execDecoded_mem_wf {d : Decoded} {s t : State} (wf : s.mem.wf = true) (run : execDecoded d s = .next t) :
    t.mem.wf = true := by
  cases d with
  | unrecognized op =>
    cases run
    exact wf
  | instruction i => exact exec_mem_wf (i := i) wf run

/-! ## The invariant (10_state.md R39, 60_exceptions.md R233) -/

theorem inv_tickIfDue {s : State} (inv : s.Inv) : s.tickIfDue.Inv := by
  rw [tickIfDue_eq]
  exact inv

theorem inv_poll_stop {s : State} (inv : s.Inv) (quit : s.nextEnv.quit = true) : s.poll.stop.Inv := by
  obtain ⟨wf, -, legal⟩ := inv
  refine ⟨wf, ?_, legal⟩
  rw [stop_run, stop_env, poll_env, quit]
  rfl

theorem inv_execDecoded {s t : State} (inv : s.Inv) (will : s.willRun = true)
    (run : execDecoded (decode s.fetchWord) s.fetched = .next t) : t.Inv := by
  obtain ⟨wf, -, legal⟩ := inv
  obtain ⟨running, -, -, env⟩ := execDecoded_environment run
  obtain ⟨runs, noQuit⟩ : s.run = true ∧ (!s.nextEnv.quit) = true := Bool.and_eq_true_iff.mp will
  refine ⟨execDecoded_mem_wf (s := s.fetched) wf run, ?runFlag, ?log⟩
  case runFlag =>
    have polled : t.env = s.nextEnv := env
    rw [running.trans runs, polled, noQuit]
  case log =>
    intro d mem
    rw [execDecoded_diags run, List.mem_append] at mem
    exact mem.elim (legal d) legal_of_mem_anomaly

/-- Settles O43: a stopped iteration changes nothing, a stopping one makes RUN agree with the quit request it polled, and
a running one polls a record without such a request, stores through the port alone and logs an anomaly of the table. -/
theorem stepKeepsTheInvariant : Obligations.StepKeepsTheInvariant := by
  intro s t inv one
  rcases step_cases s with ⟨-, one'⟩ | ⟨-, quit, one'⟩ | ⟨will, u, run, one'⟩
  · cases one'.symm.trans one
    exact inv
  · cases one'.symm.trans one
    exact inv_poll_stop inv quit
  · cases one'.symm.trans one
    exact inv_tickIfDue (inv_execDecoded inv will run)

/-- Settles O45: the one write of RUN is the stop on a quit request, and no case of an iteration writes a strap. -/
theorem strapsAndRunAreBeyondThePrograms : Obligations.StrapsAndRunAreBeyondThePrograms := by
  intro s
  rcases step_cases s with ⟨stopped, one⟩ | ⟨runs, quit, one⟩ | ⟨will, t, run, one⟩
  · exact ⟨_, one, rfl, rfl, stopped.trans (willRun_of_stopped stopped).symm⟩
  · exact ⟨_, one, rfl, rfl, (willRun_of_quit quit).symm⟩
  · obtain ⟨running, shift, incr, -⟩ := execDecoded_environment run
    obtain ⟨runs, -⟩ := Bool.and_eq_true_iff.mp will
    refine ⟨_, one, ?_⟩
    rw [tickIfDue_eq]
    exact ⟨shift, incr, running.trans (runs.trans will.symm)⟩

/-! ## The numeric codes (60_exceptions.md R233) -/

/-- Settles O54: the anomaly an iteration appends, read as its event. -/
theorem numericCodesOfTheDiagnostics : Obligations.NumericCodesOfTheDiagnostics := by
  intro s will
  obtain ⟨-, t, one, log⟩ := diagnosticsAreExactlyTheAnomalies s
  have events : t.diags.map Diag.event = s.diags.map Diag.event ++ s.anomaly.map Diag.event := by
    rw [log, if_pos will, List.map_append]
  refine ⟨t, one, ?unrecognized, ?overflow, ?underflow⟩
  case unrecognized =>
    intro op dec
    rw [events, anomaly_of_unrecognized dec]
    rfl
  case overflow =>
    intro nnn dec full
    rw [events, anomaly_of_call dec, if_pos full]
    rfl
  case underflow =>
    intro dec empty
    rw [events, anomaly_of_return dec, if_pos empty]
    rfl

/-! ## An unrecognized word, a quit request, a stopped machine (45_unrecognized.md R220, 60_exceptions.md R250) -/

theorem step_of_unrecognized {s : State} {op : Word} (will : s.willRun = true)
    (dec : decode s.fetchWord = .unrecognized op) :
    step s = .next (s.fetched.diag .unrecognizedOpcode op).tickIfDue := by
  rw [step_running will, dec]
  rfl

theorem keeps_fetched (s : State) : KeepsAllBut [.env, .inputs, .pc] s s.fetched :=
  (keeps_poll s).trans (keeps_writePC _ _)

theorem tickIfDue_of_not_due {s : State} (idle : s.env.tickDue = false) : s.tickIfDue = s := by
  rw [State.tickIfDue, idle]
  rfl

/-- Settles O40: such an iteration is a poll, an advance, a diagnostic and the tick. -/
theorem unrecognizedWordIsADiagnosedNoOp : Obligations.UnrecognizedWordIsADiagnosedNoOp := by
  intro s op will dec
  refine ⟨decode_unrecognized dec, _, step_of_unrecognized will dec, ?pc, tickIfDue_diags _, ?frame, ?timers⟩
  case pc =>
    rw [tickIfDue_eq]
    exact add_two_toNat s.pc
  case frame =>
    exact (((keeps_fetched s).trans (keeps_diag _ _ _)).trans (keeps_tickIfDue _)).mono (by simp)
  case timers =>
    intro idle
    rw [tickIfDue_of_not_due idle]
    exact ⟨rfl, rfl⟩

theorem iterations_of_stopped {s : State} (stopped : s.run = false) (n : Nat) : iterations n s = .next s := by
  induction n with
  | zero => rfl
  | succ n ih => rw [iterations_succ_of_step n (step_stopped stopped), ih]

/-- Settles O41: a stopping iteration is the poll and the stop, and a stopped one leaves the state as it is. -/
theorem quitStopsTheLoopForGood : Obligations.QuitStopsTheLoopForGood := by
  intro s
  refine ⟨fun runs quit => ⟨_, step_quit runs quit, rfl, ?frame⟩, iterations_of_stopped⟩
  case frame => exact ((keeps_poll s).trans (keeps_stop _)).mono (by simp)

end Sys2Proof.Machine

namespace Sys2Proof.Machine

/-! ## The memory port (20_memory.md R60, R61) -/

/-- Settles O8: the cell an address reaches is the address modulo 4096, and a write at the port is one write of it. -/
theorem readAfterWrite : Obligations.ReadAfterWrite :=
  fun s a b v wf => ⟨memRead_memWrite s a b v wf, wf_memWrite s a v wf, keeps_memWrite s a v⟩

end Sys2Proof.Machine

namespace Sys2Proof.Machine

/-! ## Calls and returns at every depth (40_flow.md R120, R122) -/

/-- Settles O10, by whether the stack is empty: one write of the depth and of `PC`, or a diagnostic and `PC` = 0. -/
theorem returnPopsTheProgramCounter : Obligations.ReturnPopsTheProgramCounter := by
  intro s
  rcases sp_cases s with empty | ⟨k, entry⟩
  · have run := exec_return_of_empty s empty
    refine ⟨_, run, ?popped, fun _ => ⟨rfl, empty, rfl⟩, rfl, exec_frame run⟩
    case popped =>
      intro k entry
      omega
  · have run := exec_return_of_entry s entry
    refine ⟨_, run, ?popped, ?underflow, rfl, exec_frame run⟩
    case popped =>
      intro j top
      obtain rfl : j = k := Fin.ext (by omega)
      exact ⟨rfl, rfl, rfl⟩
    case underflow =>
      intro empty
      omega

/-- Settles O12, by whether the stack is full: one write of the entry the depth names, or a diagnostic. -/
theorem callPushesTheReturnAddress : Obligations.CallPushesTheReturnAddress := by
  intro s nnn
  rcases sp_room s with full | ⟨k, room⟩
  · have run := exec_call_of_full s nnn full
    refine ⟨_, run, zextAddr_toNat nnn, ?pushed, fun _ => ⟨rfl, rfl, rfl⟩, exec_frame run⟩
    case pushed =>
      intro k room
      omega
  · have run := exec_call_of_room s nnn room
    refine ⟨_, run, zextAddr_toNat nnn, ?pushed, ?overflow, exec_frame run⟩
    case pushed =>
      intro i depth
      obtain rfl : i = k := Fin.ext (by omega)
      refine ⟨rfl, Vector.getElem_set_self i.isLt, ?others, rfl⟩
      case others =>
        intro j ne
        exact Vector.getElem_set_ne i.isLt j.isLt fun same => ne (Fin.ext same.symm)
    case overflow =>
      intro full
      omega

end Sys2Proof.Machine

namespace Sys2Proof.Machine

/-! ## Sums, masks, and results with a flag (41_alu.md R148 to R154) -/

/-- Settles O18: one write of V[X], of the byte sum. -/
theorem addRegistersSetsNoCarry : Obligations.AddRegistersSetsNoCarry :=
  fun s x _ => ⟨_, rfl, by rw [readV_writeV_same, BitVec.toNat_add], frames_writeV s x _⟩

/-- Settles O21: one write of V[X], of the byte drawn masked bit by bit. -/
theorem randomByteIsMasked : Obligations.RandomByteIsMasked :=
  fun s x _ => ⟨_, rfl, fun k => by rw [readV_writeV_same, BitVec.getLsbD_and], frames_writeV s x _⟩

/-- An instruction that writes a result and then its flag: VF holds the flag whatever X is, and V[X] the result unless
X is 0xF (10_state.md R24). -/
theorem exec_with_flag {i : Instr} {s : State} {x : RegIdx} {result flag : Byte} {r f : Nat}
    (run : exec i s = .next (s.writeWithFlag x result flag)) (value : result.toNat = r) (bit : flag.toNat = f) :
    ∃ t, exec i s = .next t ∧ (x ≠ 15 → (t.readV x).toNat = r) ∧ (t.readV 15).toNat = f ∧
      KeepsOtherRegs [x, 15] s t ∧ KeepsAllBut [.regs] s t := by
  refine ⟨_, run, ?result, ?flag, keepsOtherRegs_writeWithFlag s x _ _, keeps_writeWithFlag s x _ _⟩
  case result =>
    intro notVF
    rw [readV_writeWithFlag, if_neg notVF, if_pos rfl, value]
  case flag => rw [readV_writeWithFlag, if_pos rfl, bit]

theorem byte_sub_toNat (a b : Byte) : (a - b).toNat = (a.toNat + (256 - b.toNat)) % 256 := by
  rw [BitVec.toNat_sub, Nat.add_comm]

theorem byte_ushiftRight_one_toNat (b : Byte) : (b >>> 1).toNat = b.toNat / 2 := by
  rw [BitVec.toNat_ushiftRight, Nat.shiftRight_one]

theorem byte_shiftLeft_one_toNat (b : Byte) : (b <<< 1).toNat = 2 * b.toNat % 256 := by
  rw [BitVec.toNat_shiftLeft, Nat.shiftLeft_eq, Nat.mul_comm]

/-- Settles O19: both are a result with its flag, the difference and the strict comparison of the old operands. -/
theorem subtractAndItsFlag : Obligations.SubtractAndItsFlag :=
  fun _ _ _ => ⟨exec_with_flag rfl (byte_sub_toNat _ _) (flagGreater_toNat _ _),
    exec_with_flag rfl (byte_sub_toNat _ _) (flagGreater_toNat _ _)⟩

/-- Settles O20: both are a result with its flag, of the operand the strap selects. -/
theorem shiftsAndTheirFlag : Obligations.ShiftsAndTheirFlag := by
  intro s x y v operand
  obtain rfl : v = s.shiftOperand x y := operand
  exact ⟨exec_with_flag rfl (byte_ushiftRight_one_toNat _) (flagShr_toNat _),
    exec_with_flag rfl (byte_shiftLeft_one_toNat _) (flagShl_toNat _)⟩

end Sys2Proof.Machine

namespace Sys2Proof.Machine

/-! ## FX65 (42_index_memory.md R174, R177) -/

theorem incrI_readV (s : State) (base : Word) (x k : RegIdx) : (s.incrI base x).readV k = s.readV k := by
  rw [incrI_eq, writeI_readV]

/-- Settles O25: the loads of FX65 write the registers up to V[X] and the increment writes `I` alone, by the strap. -/
theorem registersAreLoaded : Obligations.RegistersAreLoaded := by
  intro s x
  refine ⟨_, rfl, ?loaded, ?above, ?index, (keeps_loadRegs _ _ s).trans (keeps_incrI _ _ _)⟩
  case loaded =>
    intro k hk
    rw [incrI_readV, loadRegs_readV, if_pos (mem_regsUpTo.mpr hk)]
  case above =>
    intro k hk
    rw [incrI_readV, loadRegs_readV, if_neg fun mem => not_le_of_gt hk (mem_regsUpTo.mp mem)]
  case index =>
    rw [incrI_ireg_toNat, loadRegs_eq]

end Sys2Proof.Machine

namespace Sys2Proof.Machine

/-! ## The sprite of DXYN on the screen (43_display.md R195, R196) -/

/-- The rows and bits the two loops of a draw pass through are those that fall on the pixel asked for. -/
theorem spriteHit_eq_spriteBit (s : State) (x y : RegIdx) (n : Fin 16) (px : Fin 64) (py : Fin 32) :
    spriteHit (fun row => s.memRead (effAddr s.ireg row)) ((s.readV x).toNat % 64) ((s.readV y).toNat % 32)
      (List.range n.val) px py = spriteBit s x y n px py := by
  generalize hx : (s.readV x).toNat % 64 = x0
  generalize hy : (s.readV y).toNat % 32 = y0
  simp only [spriteBit, hx, hy, effAddr]
  rw [Bool.eq_iff_iff]
  simp only [spriteHit, List.any_eq_true, List.mem_range, List.mem_finRange, Bool.and_eq_true, decide_eq_true_eq,
    true_and]
  constructor
  · rintro ⟨row, inRows, onRow, bit, onColumn, set⟩
    have rowOf : py.val - y0 = row := by omega
    have bitOf : px.val - x0 = bit.val := by omega
    rw [rowOf, bitOf]
    exact ⟨⟨⟨⟨by omega, by omega⟩, by omega⟩, by omega⟩, set⟩
  · rintro ⟨⟨⟨⟨above, below⟩, right⟩, left⟩, set⟩
    exact ⟨py.val - y0, by omega, by omega, ⟨px.val - x0, by omega⟩, by simp only; omega, set⟩

theorem draws_drawSprite (s : State) (x y : RegIdx) (n : Fin 16) :
    Draws (spriteBit s x y n) { fb := s.fb, off := false } (s.drawSprite x y n) :=
  draws_congr (draws_rows _ _ _ _ List.pairwise_lt_range _) (spriteHit_eq_spriteBit s x y n)

theorem exec_opDXYN (s : State) (x y : RegIdx) (n : Fin 16) : exec (.opDXYN x y n) s =
    .next ((s.setFB (s.drawSprite x y n).fb).writeV regVF (flagByte (s.drawSprite x y n).off)) := rfl

/-- A draw toggles the pixels under the sprite's set bits, and VF says whether one of these was on. -/
theorem exec_draw {s t : State} {x y : RegIdx} {n : Fin 16} (run : exec (.opDXYN x y n) s = .next t) :
    (∀ px py, pixel t.fb px py = (pixel s.fb px py ^^ spriteBit s x y n px py)) ∧
    ((t.readV 15).toNat = if ∃ px py, spriteBit s x y n px py = true ∧ pixel s.fb px py = true then 1 else 0) := by
  obtain ⟨toggled, collision⟩ := draws_drawSprite s x y n
  cases run
  refine ⟨toggled, ?_⟩
  rw [readV_writeV_same, flagByte_toNat]
  exact if_congr (collision.trans (or_iff_right Bool.false_ne_true)) rfl rfl

/-- Settles O28: what a draw toggles and reports, and its frame. -/
theorem drawTogglesTheSpritePixels : Obligations.DrawTogglesTheSpritePixels := by
  intro s x y n
  have run := exec_opDXYN s x y n
  obtain ⟨toggled, flag⟩ := exec_draw run
  refine ⟨_, run, toggled, ?collision, ?noCollision, keepsOtherRegs_writeV _ _ _, exec_frame run⟩
  case collision =>
    intro hit
    rw [flag, if_pos hit]
  case noCollision =>
    intro clear
    rw [flag, if_neg]
    rintro ⟨px, py, bit, on⟩
    exact absurd on (by rw [clear px py bit]; exact Bool.false_ne_true)

/-- The sprite that falls on the screen is settled by V[X], V[Y], `I` and memory. -/
theorem spriteBit_congr {s t : State} {x y : RegIdx} (hx : t.readV x = s.readV x) (hy : t.readV y = s.readV y)
    (index : t.ireg = s.ireg) (mem : ∀ a, t.memRead a = s.memRead a) (n : Fin 16) :
    spriteBit t x y n = spriteBit s x y n := by
  funext px py
  rw [spriteBit, spriteBit, hx, hy, index, mem]

/-- A draw whose coordinates do not lie in VF leaves the same sprite at the same place. -/
theorem spriteBit_of_draw {s t : State} {x y : RegIdx} {n : Fin 16} (hx : x ≠ 15) (hy : y ≠ 15)
    (run : exec (.opDXYN x y n) s = .next t) : spriteBit t x y n = spriteBit s x y n := by
  obtain ⟨t', run', -, -, -, regs, parts⟩ := drawTogglesTheSpritePixels s x y n
  cases run'.symm.trans run
  exact spriteBit_congr (regs x (by simpa using hx)) (regs y (by simpa using hy)) (parts .index (by decide))
    (parts .mem (by decide)) n

/-- Settles O29: the second draw toggles the same pixels back, and on a blank screen the pixels it finds on are the
sprite's own. -/
theorem drawingTwiceRestoresTheScreen : Obligations.DrawingTwiceRestoresTheScreen := by
  intro s x y n hx hy
  obtain ⟨t, first, -⟩ := drawTogglesTheSpritePixels s x y n
  obtain ⟨u, second, -⟩ := drawTogglesTheSpritePixels t x y n
  obtain ⟨toggled, -⟩ := exec_draw first
  obtain ⟨restored, flag⟩ := exec_draw second
  rw [spriteBit_of_draw hx hy first] at restored flag
  refine ⟨t, u, first, second, ?screen, ?collision⟩
  case screen =>
    refine framebuffer_ext fun px py => ?_
    rw [restored, toggled, Bool.xor_assoc, Bool.xor_self, Bool.xor_false]
  case collision =>
    intro blank
    have drawn : ∀ px py, pixel t.fb px py = spriteBit s x y n px py := by
      intro px py
      rw [toggled, blank, pixel_blankScreen, Bool.false_xor]
    simp [flag, drawn]

end Sys2Proof.Machine

namespace Sys2Proof.Machine

/-! ## EX9E and EXA1 (44_keypad_timers.md R201, R202, R208) -/

/-- Settles O30: EX9E skips when the key is held and EXA1 unless it is. -/
theorem keySkips : Obligations.KeySkips := by
  intro s x
  constructor
  · refine exec_skip_when ?_
    rw [Bool.decide_eq_true]
    rfl
  · refine exec_skip_unless ?_
    rw [decide_not, Bool.decide_eq_true]
    rfl

end Sys2Proof.Machine

namespace Sys2Proof.Machine

/-! ## Where an instruction leaves `PC` (10_state.md R29) -/

theorem skipIf_pc (s : State) (c : Bool) : (s.skipIf c).pc = if c then s.pc + 2 else s.pc := by
  rw [skipIf_eq, writePC_pc]

theorem skipIf_not_pc (s : State) (c : Bool) : (s.skipIf (!c)).pc = if c then s.pc else s.pc + 2 := by
  cases c with
  | false => rfl
  | true => rfl

theorem awaitKey_pc (s : State) (x : RegIdx) (key : Option Key) :
    (s.awaitKey x key).pc = if key.isSome then s.pc else s.pc - 2 := by
  cases key with
  | none => rfl
  | some k => rfl

theorem exec_pc {i : Instr} {s t : State} (run : exec i s = .next t) : t.pc = pcAfter i s := by
  cases i with
  | op00EE | op1NNN | op2NNN | opBNNN =>
    cases run
    rfl
  | op3XNN | op4XNN | op5XY0 | op9XY0 =>
    cases run
    simp [skipIf_pc, pcAfter]
  | opEX9E =>
    cases run
    exact skipIf_pc s _
  | opEXA1 =>
    cases run
    exact skipIf_not_pc s _
  | opFX0A =>
    cases run
    exact awaitKey_pc s _ _
  | op00E0 | op6XNN | op7XNN | op8XY0 | op8XY1 | op8XY2 | op8XY3 | op8XY4 | op8XY5 | op8XY6 | op8XY7 | op8XYE
  | opANNN | opCXNN | opDXYN | opFX07 | opFX15 | opFX18 | opFX1E | opFX29 | opFX33 | opFX55 | opFX65 =>
    exact exec_frame run .pc (by simp [mayChange])

/-- Settles O36: the jumps, the return and the skips write `PC` as the table says, FX0A takes the advance back while it
waits, and the frame of every other instruction keeps `PC`. -/
theorem programCounterAfterEachInstruction : Obligations.ProgramCounterAfterEachInstruction := by
  refine ⟨?instruction, fun _ _ => ⟨_, rfl, rfl⟩⟩
  case instruction =>
    intro i s
    obtain ⟨t, run, -⟩ := onlyTheListedPartsChange i s
    exact ⟨t, run, exec_pc run⟩

/-! ## Who reads the straps (00_scope.md section 4) -/

/-- The state under other straps. -/
def State.withStraps (s : State) (shift incr : Bool) : State := { s with shiftSetVY := shift, fx55IncrI := incr }

theorem skipIf_withStraps (s : State) (a b c : Bool) :
    (s.withStraps a b).skipIf c = (s.skipIf c).withStraps a b := by
  rw [skipIf_eq, skipIf_eq]
  rfl

theorem awaitKey_withStraps (s : State) (a b : Bool) (x : RegIdx) (key : Option Key) :
    (s.withStraps a b).awaitKey x key = (s.awaitKey x key).withStraps a b := by
  cases key with
  | none => rfl
  | some k => rfl

/-- Settles O38: the operations an instruction is composed of carry the straps along unread, but for the operand of the
shifts and the increment of FX55 and FX65. -/
theorem strapsReachOnlyFourInstructions : Obligations.StrapsReachOnlyFourInstructions := by
  intro i s a b noShift noBlock
  cases i with
  | op8XY6 x y => exact absurd rfl (noShift x y).1
  | op8XYE x y => exact absurd rfl (noShift x y).2
  | opFX55 x => exact absurd rfl (noBlock x).1
  | opFX65 x => exact absurd rfl (noBlock x).2
  | op00E0 | op1NNN | op6XNN | op7XNN | op8XY0 | op8XY1 | op8XY2 | op8XY3 | op8XY4 | op8XY5 | op8XY7
  | opANNN | opBNNN | opCXNN | opDXYN | opFX07 | opFX15 | opFX18 | opFX1E | opFX29 | opFX33 => exact ⟨_, rfl, rfl⟩
  | op3XNN | op4XNN | op5XY0 | op9XY0 | opEX9E | opEXA1 =>
    exact ⟨_, rfl, congrArg Host.Outcome.next (skipIf_withStraps s a b _)⟩
  | opFX0A x => exact ⟨_, rfl, congrArg Host.Outcome.next (awaitKey_withStraps s a b x _)⟩
  | op2NNN nnn =>
    rcases sp_room s with full | ⟨k, room⟩
    · exact ⟨_, exec_call_of_full s nnn full, exec_call_of_full (s.withStraps a b) nnn full⟩
    · exact ⟨_, exec_call_of_room s nnn room, exec_call_of_room (s.withStraps a b) nnn room⟩
  | op00EE =>
    rcases sp_cases s with empty | ⟨k, entry⟩
    · exact ⟨_, exec_return_of_empty s empty, exec_return_of_empty (s.withStraps a b) empty⟩
    · exact ⟨_, exec_return_of_entry s entry, exec_return_of_entry (s.withStraps a b) entry⟩

end Sys2Proof.Machine

namespace Sys2Proof.Machine

/-! ## Launches (00_scope.md R9, R10, 70_reset_and_hazards.md R261, R262) -/

/-- A launch that exists has a configuration within the limits, and leaves the reset state with four parts replaced. -/
theorem launch_eq_some {c : Config} {s : State} (h : launch c = some s) : c.wf = true ∧ s = { State.reset with
    mem := Memory.image c, shiftSetVY := c.shiftSetVY, fx55IncrI := c.fx55IncrI, fb := c.fb0 } := by
  cases wf : c.wf with
  | false =>
    rw [launch_none c wf] at h
    cases h
  | true =>
    rw [launch_eq c wf] at h
    exact ⟨rfl, (Option.some.inj h).symm⟩

theorem launch_exists_iff (c : Config) : (∃ s, launch c = some s) ↔ c.wf = true :=
  ⟨fun ⟨_, h⟩ => (launch_eq_some h).1, fun wf => ⟨_, launch_eq c wf⟩⟩

/-- Settles O50: a launched machine reads its memory image, cell by cell. -/
theorem launchBuildsTheMemoryImage : Obligations.LaunchBuildsTheMemoryImage := by
  intro c s h a
  obtain ⟨wf, rfl⟩ := launch_eq_some h
  refine ⟨?rom, ?font, image_zero c wf⟩
  case rom =>
    intro k hk cell
    rw [State.memRead, cell]
    exact image_rom c wf hk
  case font =>
    intro k hk cell
    rw [State.memRead, cell]
    exact image_font c wf hk

/-- Settles O44: nothing is stored or logged yet, and RUN is 1 after a record that did not ask to quit. -/
theorem resetMeetsTheInvariant : Obligations.ResetMeetsTheInvariant := ⟨rfl, rfl, nofun⟩

/-- The invariant asks nothing of the parts in which a launch differs from the reset state, but for the form of memory. -/
theorem inv_launch {c : Config} {s : State} (h : launch c = some s) : s.Inv := by
  obtain ⟨wf, rfl⟩ := launch_eq_some h
  obtain ⟨-, runFlag, log⟩ := resetMeetsTheInvariant
  exact ⟨image_wf c wf, runFlag, log⟩

theorem reset_readV (r : RegIdx) : State.reset.readV r = 0 := Vector.getElem_replicate r.isLt

/-- Settles O51: the limits of a configuration, and the reset state with four parts replaced. -/
theorem launchLeavesTheResetValues : Obligations.LaunchLeavesTheResetValues := by
  refine ⟨fun c => (launch_exists_iff c).trans (config_wf_iff c), fun c s h => ?_⟩
  have inv := inv_launch h
  obtain ⟨-, rfl⟩ := launch_eq_some h
  exact ⟨reset_readV, rfl, rfl, rfl, rfl, rfl, rfl, rfl, rfl, rfl, rfl, inv⟩

/-- Bytes that unlisted cells read as anyway list no cell when they are loaded. -/
theorem load_nil_of_unlisted {vs : List Byte} {a : Nat}
    (same : ∀ k, k < vs.length → vs.getD k 0 = Memory.unlisted (a + k)) : Memory.load [] a vs = [] := by
  induction vs generalizing a with
  | nil => rfl
  | cons v vs ih =>
    have first : Memory.write [] a v = [] := if_pos (same 0 (Nat.zero_lt_succ _))
    rw [Memory.load, first]
    refine ih fun k hk => ?_
    rw [Nat.add_right_comm]
    exact same (k + 1) (Nat.succ_lt_succ hk)

theorem unlisted_fontBase_add (k : Nat) : Memory.unlisted (fontBase.toNat + k) = defaultFont.getD k 0 := by
  rw [Memory.unlisted, if_pos (Nat.le_add_right _ _), Nat.add_sub_cancel_left]

/-- The standard image is the default font, which unlisted cells read as, and no ROM. -/
theorem image_standard : Memory.image Config.standard = [] := by
  have font : Memory.load [] fontBase.toNat defaultFont = [] :=
    load_nil_of_unlisted fun k _ => (unlisted_fontBase_add k).symm
  calc Memory.image Config.standard = Memory.load (Memory.load [] fontBase.toNat defaultFont) romBase.toNat [] := rfl
    _ = Memory.load [] romBase.toNat [] := by rw [font]
    _ = [] := rfl

/-- Settles O52: the standard configuration is within the limits, its image lists no cell, and its straps and screen are
those of the reset state. -/
theorem resetIsTheStandardLaunch : Obligations.ResetIsTheStandardLaunch := by
  have wf : Config.standard.wf = true := by decide
  rw [Obligations.ResetIsTheStandardLaunch, launch_eq _ wf, image_standard]
  rfl

end Sys2Proof.Machine

namespace Sys2Proof

/-! ## The field views of two bytes (30_encoding.md R91) -/

theorem byte_and_low_nibble_toNat (b : Byte) : (b &&& 0xF).toNat = b.toNat % 16 :=
  Nat.and_two_pow_sub_one_eq_mod b.toNat 4

/-- The low nibble of one byte over another byte, shifted into place, overlaps nowhere: the union is a sum. -/
theorem low_nibble_over_byte_toNat (b1 b2 : Byte) :
    ((((b1 &&& 0xF).setWidth 16) <<< 8) ||| b2.setWidth 16 : Word).toNat = b1.toNat % 16 * 256 + b2.toNat := by
  have low := b2.isLt
  have high : (b1 &&& 0xF).toNat % 65536 * 256 % 65536 = b1.toNat % 16 * 256 := by
    rw [byte_and_low_nibble_toNat]
    omega
  rw [BitVec.toNat_or, BitVec.toNat_shiftLeft, BitVec.toNat_setWidth, BitVec.toNat_setWidth,
    Nat.mod_eq_of_lt (Nat.lt_trans low (by decide)), Nat.shiftLeft_eq, high]
  exact (Nat.shiftLeft_eq (b1.toNat % 16) 8 ▸ Nat.shiftLeft_add_eq_or_of_lt low (b1.toNat % 16)).symm

/-- Settles O5: each field is digits of the opcode, which is the first byte times 256 plus the second. -/
theorem fieldViewsOfTheTwoBytes : Obligations.FieldViewsOfTheTwoBytes := by
  intro b1 b2
  have low := b2.isLt
  refine ⟨?c, ?x, ?y, ?n, ?nn, ?nnn⟩
  case c =>
    rw [fieldC_toNat, opcodeOf_toNat]
    omega
  case x =>
    rw [fieldX_val, opcodeOf_toNat]
    omega
  case y =>
    rw [fieldY_val, opcodeOf_toNat]
    omega
  case n =>
    rw [fieldN_val, opcodeOf_toNat]
    omega
  case nn =>
    apply BitVec.eq_of_toNat_eq
    rw [fieldNN_toNat, opcodeOf_toNat]
    omega
  case nnn =>
    apply BitVec.eq_of_toNat_eq
    rw [low_nibble_over_byte_toNat, Machine.zextAddr_toNat, fieldNNN_toNat, opcodeOf_toNat]
    omega

end Sys2Proof

namespace Sys2Proof

/-! ## Which words of each class are instructions (30_encoding.md R95) -/

/-- Whether a word with class digit `c` is an instruction, by its three digits `k` below: the whole words of class 0, and
the sub-table keys of R95. -/
def recognized (c k : Nat) : Bool :=
  match c with
  | 0x0 => decide (k ∈ [0xE0, 0xEE])
  | 0x5 | 0x9 => decide (k % 16 ∈ [0x0])
  | 0x8 => decide (k % 16 ∈ [0x0, 0x1, 0x2, 0x3, 0x4, 0x5, 0x6, 0x7, 0xE])
  | 0xE => decide (k % 256 ∈ [0x9E, 0xA1])
  | 0xF => decide (k % 256 ∈ [0x07, 0x0A, 0x15, 0x18, 0x1E, 0x29, 0x33, 0x55, 0x65])
  | _ => true

theorem decodeClass8_ne_unrecognized {op : Word} : decodeClass8 op ≠ .unrecognized op ↔
    (fieldN op).val ∈ [0x0, 0x1, 0x2, 0x3, 0x4, 0x5, 0x6, 0x7, 0xE] := by
  unfold decodeClass8
  split <;> simp_all

theorem decodeClassE_ne_unrecognized {op : Word} : decodeClassE op ≠ .unrecognized op ↔
    (fieldNN op).toNat ∈ [0x9E, 0xA1] := by
  unfold decodeClassE
  split <;> simp_all

theorem decodeClassF_ne_unrecognized {op : Word} : decodeClassF op ≠ .unrecognized op ↔
    (fieldNN op).toNat ∈ [0x07, 0x0A, 0x15, 0x18, 0x1E, 0x29, 0x33, 0x55, 0x65] := by
  unfold decodeClassF
  split <;> simp_all

section
variable {op : Word} {c k : Nat} (digits : op.toNat = 4096 * c + k) (below : k < 4096)
include digits

theorem fieldN_of_digits : (fieldN op).val = k % 16 := by
  rw [fieldN_val]
  omega

theorem fieldNN_of_digits : (fieldNN op).toNat = k % 256 := by
  rw [fieldNN_toNat]
  omega

include below

theorem fieldC_of_digits : (fieldC op).toNat = c := by
  rw [fieldC_toNat]
  omega

/-- Classes 1 to F, as the general table lists them: 8, E and F by their sub-tables, 5 and 9 by nibble 4, the others
whole. -/
theorem decodeClass_ne_unrecognized (nonzero : c ≠ 0) :
    decodeClass op ≠ .unrecognized op ↔ recognized c k = true := by
  have inClass := fieldC_of_digits digits below
  have low := fieldN_of_digits digits
  have byte := fieldNN_of_digits digits
  have zero : fieldN op = 0 ↔ k % 16 = 0 := by rw [Fin.ext_iff, low]; rfl
  unfold decodeClass
  split
  case h_8 d =>
    obtain rfl : c = 8 := inClass.symm.trans d
    rw [decodeClass8_ne_unrecognized, low, recognized, decide_eq_true_eq]
  case h_14 d =>
    obtain rfl : c = 14 := inClass.symm.trans d
    rw [decodeClassE_ne_unrecognized, byte, recognized, decide_eq_true_eq]
  case h_15 d =>
    obtain rfl : c = 15 := inClass.symm.trans d
    rw [decodeClassF_ne_unrecognized, byte, recognized, decide_eq_true_eq]
  case h_5 d | h_9 d =>
    obtain rfl := inClass.symm.trans d
    simp [zero, recognized]
  case h_16 =>
    have := op.isLt
    simp only [imp_false] at *
    omega
  all_goals
    next d =>
      obtain rfl := inClass.symm.trans d
      simp [recognized]

theorem decode_ne_unrecognized : decode op ≠ .unrecognized op ↔ recognized c k = true := by
  have inClass := fieldC_of_digits digits below
  by_cases zero : c = 0
  · subst zero
    have clear : op = 0x00E0 ↔ k = 0xE0 := by
      rw [← BitVec.toNat_inj, digits, Nat.mul_zero, Nat.zero_add]; rfl
    have ret : op = 0x00EE ↔ k = 0xEE := by
      rw [← BitVec.toNat_inj, digits, Nat.mul_zero, Nat.zero_add]; rfl
    simp only [decode, decodeClass, clear, ret, inClass, recognized]
    split
    · simp [*]
    · split <;> simp [*]
  · rw [decode_of_class fun h => zero (inClass ▸ congrArg BitVec.toNat h)]
    exact decodeClass_ne_unrecognized digits below zero

end

/-! ## How many (30_encoding.md R97) -/

theorem count_congr {p q : Nat → Prop} [DecidablePred p] [DecidablePred q] {n : Nat} (h : ∀ k, k < n → (p k ↔ q k)) :
    Nat.count p n = Nat.count q n :=
  le_antisymm (Nat.count_mono_left fun k hk => (h k hk).mp) (Nat.count_mono_left fun k hk => (h k hk).mpr)

/-- What depends on the remainder modulo `m` alone is met equally often in each of `q` blocks of `m`. -/
theorem count_mod (p : Nat → Prop) [DecidablePred p] (m q : Nat) :
    Nat.count (fun k => p (k % m)) (m * q) = q * Nat.count p m := by
  induction q with
  | zero => rw [Nat.mul_zero, Nat.count_zero, Nat.zero_mul]
  | succ q ih =>
    have block : Nat.count (fun k => p ((m * q + k) % m)) m = Nat.count p m :=
      count_congr fun k hk => by rw [Nat.mul_add_mod, Nat.mod_eq_of_lt hk]
    rw [Nat.mul_succ, Nat.count_add, ih, block, Nat.succ_mul]

theorem count_mem {keys : List Nat} {n : Nat} (distinct : keys.Nodup) (below : ∀ a ∈ keys, a < n) :
    Nat.count (fun k => decide (k ∈ keys) = true) n = keys.length := by
  rw [Nat.count_eq_card_filter_range, ← List.toFinset_card_of_nodup distinct]
  congr 1
  ext a
  simpa using below a

theorem count_mod_mem {keys : List Nat} {m : Nat} (q : Nat) (distinct : keys.Nodup) (below : ∀ a ∈ keys, a < m) :
    Nat.count (fun k => decide (k % m ∈ keys) = true) (m * q) = q * keys.length :=
  (count_mod _ m q).trans (congrArg (q * ·) (count_mem distinct below))

/-- The counts by class digit, and how each comes about: the two whole words of class 0, the keys of nibble 4 or byte 2
in every block, every word of the rest. -/
theorem count_recognized : ∀ c < 16, Nat.count (fun k => recognized c k = true) 4096 =
    [2, 4096, 4096, 4096, 4096, 256, 4096, 4096, 2304, 256, 4096, 4096, 4096, 4096, 32, 144].getD c 0
  | 0, _ => count_mem (keys := [0xE0, 0xEE]) (by decide) (by decide)
  | 5, _ | 9, _ => count_mod_mem (keys := [0x0]) 256 (by decide) (by decide)
  | 8, _ => count_mod_mem (keys := [0x0, 0x1, 0x2, 0x3, 0x4, 0x5, 0x6, 0x7, 0xE]) 256 (by decide) (by decide)
  | 14, _ => count_mod_mem (keys := [0x9E, 0xA1]) 16 (by decide) (by decide)
  | 15, _ =>
    count_mod_mem (keys := [0x07, 0x0A, 0x15, 0x18, 0x1E, 0x29, 0x33, 0x55, 0x65]) 16 (by decide) (by decide)
  | 1, _ | 2, _ | 3, _ | 4, _ | 6, _ | 7, _ | 10, _ | 11, _ | 12, _ | 13, _ => Nat.count_of_forall fun _ _ => rfl
  | n + 16, tooLarge => absurd tooLarge (by omega)

/-- Settles O4: which words of a class are instructions depends on the sub-table key, which every block of 16 or 256
words runs through once. -/
theorem recognizedWordsPerClass : Obligations.RecognizedWordsPerClass := by
  intro c
  rw [← count_recognized c.val c.isLt, Nat.count, List.countP_eq_length_filter]
  refine congrArg List.length (List.filter_congr fun k hk => ?_)
  have below := List.mem_range.mp hk
  refine decide_eq_decide.mpr (decode_ne_unrecognized ?_ below)
  rw [BitVec.toNat_ofNat]
  omega

end Sys2Proof
